-- ==== Sys2Proof/Word.lean ====
section
/-! DEFINITION. The word types of CORE: a DoubleWord is 32 bits, a Byte is 8 (spec 00 R5, R10).
Arithmetic on them is `BitVec`'s; every helper that a test could show wrong stands in
`Decode.lean` or under `Machine/`. -/

namespace Sys2Proof

/-- A Byte: a vector of exactly 8 bits (R10). -/
abbrev Byte := BitVec 8

/-- A DoubleWord: a vector of exactly 32 bits, the width of every register, data value and virtual
address (R5, R7, R10). -/
abbrev Word := BitVec 32

end Sys2Proof
end

