-- ==== Sys2Proof/Config.lean ====
section
/-! DEFINITION. What an implementation fixes. The one open parameter of the spec is CAPACITY, the
last legal physical byte address (R5, R65; 92 D31). Statements hold for every capacity because it is
a field of State; this file only names the value `State.reset` uses. -/

namespace Sys2Proof.Config

/-- The CAPACITY of `State.reset`. DESIGN CHOICE (log entry 1), unsafe: the spec leaves CAPACITY open
(R5, R65); 0xFFFF is the value its test vectors assume (95, conventions). -/
def defaultCapacity : Word := 0x0000FFFF#32

end Sys2Proof.Config
end

