-- ==== Sys2Proof/Syntax.lean ====
section
/-! DEFINITION. The instructions of CORE: one constructor per row of spec/opcode_table.json
(30 R113 to R116), over the operand forms of R105 to R107. -/

namespace Sys2Proof

/-- The twelve registers (10 R20), in the order of their codes (R35). -/
inductive Reg where
  | eax | ebx | ecx | eip | esp | eir | eflags | itp | ptp | nptp | gptp | vmptr
deriving DecidableEq, Repr

/-- One operand slot after decode: the legal (mode, otype) pairs of R107 with the slot's value word.
A register is kept as its raw code, because a code above 11 is detected at use, not at decode (R111). -/
inductive Operand where
  /-- `NO`, mode 00: the operand is absent; its value word is never read (R112). -/
  | no
  /-- `$v`: IMM, direct (R109). -/
  | imm (v : Word)
  /-- `%r`: REG, direct; the value word holds the register code (R111). -/
  | reg (code : Word)
  /-- `*%r`: REG, indirect: the DoubleWord at the virtual address in the register (R111). -/
  | regInd (code : Word)
  /-- `@a`: MEM, direct: a virtual address (R110). -/
  | mem (addr : Word)
deriving DecidableEq, Repr

/-- The legal (mode, otype) pairs of an operand slot, without the value word (R107). -/
inductive SlotKind where
  | no | imm | reg | regInd | mem
deriving DecidableEq, Repr

/-- Why a string of bytes is no instruction. -/
inductive DecodeError where
  /-- The type or the opcode is not assigned (R117, R273). -/
  | unrecognizedInstruction
  /-- An operand slot's 7-bit type is none of the four (R107, R274). -/
  | unrecognizedOperandType
  /-- An operand slot's mode is not legal for its type (R107, R275). -/
  | unrecognizedAddressingMode
  /-- Fewer bytes than an instruction has. Only a list of bytes can end early: the machine fetches
  each word through the MMU and meets the MMU's faults instead. -/
  | truncated
deriving DecidableEq, Repr

/-- The decoded instructions. Both operand slots are kept for every opcode: a slot an instruction
does not use is still decoded, checked and fetched, then ignored by the handler (R118). -/
inductive Instr where
  -- R-type (R113)
  | add (op1 op2 : Operand)
  | adc (op1 op2 : Operand)
  | sub (op1 op2 : Operand)
  | sbb (op1 op2 : Operand)
  | mul (op1 op2 : Operand)
  | div (op1 op2 : Operand)
  | neg (op1 op2 : Operand)
  | cmp (op1 op2 : Operand)
  | and (op1 op2 : Operand)
  | or (op1 op2 : Operand)
  | xor (op1 op2 : Operand)
  | not (op1 op2 : Operand)
  | shl (op1 op2 : Operand)
  | shr (op1 op2 : Operand)
  -- I-type (R114)
  | mov (op1 op2 : Operand)
  | nop (op1 op2 : Operand)
  | push (op1 op2 : Operand)
  | pop (op1 op2 : Operand)
  | pushf (op1 op2 : Operand)
  | popf (op1 op2 : Operand)
  | cli (op1 op2 : Operand)
  | sti (op1 op2 : Operand)
  -- J-type (R115)
  | jmp (op1 op2 : Operand)
  | jz (op1 op2 : Operand)
  /-- The alias JE: its words are JZ's (R124), so the decoder never answers it (log entry 6). -/
  | je (op1 op2 : Operand)
  | jnz (op1 op2 : Operand)
  /-- The alias JNE: its words are JNZ's (R124), so the decoder never answers it (log entry 6). -/
  | jne (op1 op2 : Operand)
  | jg (op1 op2 : Operand)
  | jge (op1 op2 : Operand)
  | jl (op1 op2 : Operand)
  | jle (op1 op2 : Operand)
  | call (op1 op2 : Operand)
  | ret (op1 op2 : Operand)
  | int (op1 op2 : Operand)
  | iret (op1 op2 : Operand)
  | sysenter (op1 op2 : Operand)
  | sysexit (op1 op2 : Operand)
  /-- The halt sentinel: a word 0 that is all zero (R116). -/
  | haltWord
deriving DecidableEq, Repr

/-- Is the operand absent? -/
def Operand.isNo : Operand → Bool
  | .no => true
  | _ => false

/-- Is the operand an immediate? -/
def Operand.isImm : Operand → Bool
  | .imm _ => true
  | _ => false

/-- The decoded slot kind together with its value word. -/
def SlotKind.operand : SlotKind → Word → Operand
  | .no, _ => .no
  | .imm, v => .imm v
  | .reg, v => .reg v
  | .regInd, v => .regInd v
  | .mem, v => .mem v

/-- The kind of an operand. -/
def Operand.kind : Operand → SlotKind
  | .no => .no
  | .imm _ => .imm
  | .reg _ => .reg
  | .regInd _ => .regInd
  | .mem _ => .mem

/-- The value word of an operand; absent operands carry a zero word (R112). -/
def Operand.value : Operand → Word
  | .no => 0#32
  | .imm v => v
  | .reg v => v
  | .regInd v => v
  | .mem v => v

/-- The instruction whose words an instruction shares: JE is JZ and JNE is JNZ (R124); every other
instruction is itself. -/
def Instr.canonical : Instr → Instr
  | .je a b => .jz a b
  | .jne a b => .jnz a b
  | i => i

end Sys2Proof
end

