-- ==== Sys2Proof/Machine/State.lean ====
section
/-! DEFINITION. The state of CORE as plain data (10 R20 to R45), the reasons a step can stop (60 R271),
and the small records the operations pass around. -/

namespace Sys2Proof.Machine

/-- The access kinds of the MMU (20 R79). -/
inductive Access where
  | read | write | execute
deriving DecidableEq, Repr

/-- The five arithmetic flags an ALU operation returns (R32, R140). -/
structure ArithFlags where
  zf : Bool
  sf : Bool
  cf : Bool
  of : Bool
  pf : Bool
deriving DecidableEq, Repr

/-- What an ALU operation delivers: a 32-bit result and new arithmetic flags (R140). -/
structure AluResult where
  value : Word
  flags : ArithFlags
deriving DecidableEq, Repr

/-- The fault kinds (60 R271). A fault ends the cycle and is delivered to the host; nothing but EIR
has changed (R285), and `cycle` of `HostPort.lean` gives the state left. None of them is a stop of the
model's own: each is the outcome the spec gives. -/
inductive Fault where
  /-- Code 1. Raised by nothing in hardware (R272); kept so that the numbering is the spec's. Safe. -/
  | widthMismatch
  /-- Code 2. Raised by decode for an unassigned type or opcode (R273). Safe. -/
  | unrecognizedInstruction
  /-- Code 3. Raised by decode for an unknown operand type, and by a register access whose code is
  above 11 (R274). Safe. -/
  | unrecognizedOperandType
  /-- Code 4. Raised by decode for a mode that is not legal for the operand type (R275). Safe. -/
  | unrecognizedAddressingMode
  /-- Code 5. Raised by a handler whose needed slot is `NO` (R276). Safe. -/
  | missingOperand
  /-- Code 6. Raised by a handler whose write target is an immediate, and by an access to GPTP
  while it is absent (R277). Safe. -/
  | unsupportedOperandType
  /-- Code 7. Raised by DIV (R278). Safe. -/
  | divisionByZero
  /-- Code 8. Raised by CLI, STI, PUSHF, POPF, IRET, SYSEXIT out of kernel mode and by the MMU (R279). Safe. -/
  | privilegeViolation
  /-- Code 9. Raised by a write of a restricted register out of kernel mode (R280). Safe. -/
  | registerNotWritableInUserMode
  /-- Code 10. Raised by the MMU for an entry that is not present: the entry's twelve flag bits and
  its physical address (R281). Safe. -/
  | pageFault (flags : BitVec 12) (addressOfPageTableEntry : Word)
  /-- Code 11. Raised by the RAM port: the offending physical byte address, an exact integer (R282). Safe. -/
  | addressOutOfRange (address : Nat)
deriving DecidableEq, Repr

/-- Why the model has no answer. -/
inductive Refusal where
  /-- An instruction whose meaning is not written; `exec`'s refused arms only. Safe. -/
  | notModelled (mnemonic : String)
  /-- A host access to GPTP while it is absent, to which the spec gives no meaning (R302, 93 U11);
  raised by the host port's register get and set only, never by an instruction. Safe. -/
  | hostAccessToAbsentGptp
deriving DecidableEq, Repr

/-- The RAM as (physical address, byte) pairs: addresses strictly rising, no byte zero, because an
untouched cell reads zero and a zero byte removes the entry (R61, R62). -/
abbrev Memory := List Host.Cell

/-- The state of CORE and its RAM (R20 to R43); R42: there is no other. -/
structure State where
  /-- EAX (R21). -/
  eax : Word
  /-- EBX (R21). -/
  ebx : Word
  /-- ECX (R21). -/
  ecx : Word
  /-- EIP, the virtual address of the instruction being executed (R22). -/
  eip : Word
  /-- ESP, the virtual address of the last slot pushed (R23). -/
  esp : Word
  /-- EIR, word 0 of the instruction last fetched (R24). -/
  eir : Word
  /-- EFLAGS[31:24], "the whole of the register's content" (R30): PL in bits 7:6, then ZF, SF, CF,
  OF, PF, IF. EFLAGS[23:0] read as zero and are held nowhere (log entry 3). -/
  flagsByte : Byte
  /-- ITP (R25). -/
  itp : Word
  /-- PTP, the physical address of the page table (R26). -/
  ptp : Word
  /-- NPTP (R27). -/
  nptp : Word
  /-- The content of GPTP while it is present, that is while `pg` holds; 0 while absent (R28, R41, log entry 4). -/
  gptp : Word
  /-- VMPTR (R29). -/
  vmptr : Word
  /-- PG, the paging-enable bit (R40). -/
  pg : Bool
  /-- The RAM (R43). -/
  ram : Memory
  /-- CAPACITY, the last legal physical byte address: a parameter of the machine, changed by no step
  and by no host operation (R5, R65, log entry 1). -/
  capacity : Word
deriving DecidableEq, Repr

/-- The reset values (R45, R310) of a machine with the given CAPACITY: kernel mode, real mode, GPTP
absent, every RAM byte zero. -/
def State.resetWith (capacity : Word) : State where
  eax := 0#32
  ebx := 0#32
  ecx := 0#32
  eip := 0#32
  esp := 0#32
  eir := 0#32
  flagsByte := 0#8
  itp := 0#32
  ptp := 0#32
  nptp := 0#32
  gptp := 0#32
  vmptr := 0#32
  pg := false
  ram := []
  capacity := capacity

/-- The machine right after the reset that creates it (R45, R310, R311). -/
def State.reset : State := State.resetWith Config.defaultCapacity

end Sys2Proof.Machine
end

