-- ==== Sys2Proof/Machine/Flags.lean ====
section
/-! DEFINITION. The flags byte of EFLAGS (10 R30) and the flag computations of the ALU (40 R141 to R148). -/

namespace Sys2Proof.Machine

/-! ## The flags byte: `PL ++ ZF ++ SF ++ CF ++ OF ++ PF ++ IF` (R30, R214) -/

/-- The flags byte of its fields (R30). -/
def packFlags (pl : BitVec 2) (zf sf cf of pf ie : Bool) : Byte :=
  pl ++ BitVec.ofBool zf ++ BitVec.ofBool sf ++ BitVec.ofBool cf ++ BitVec.ofBool of
    ++ BitVec.ofBool pf ++ BitVec.ofBool ie

/-- `PL`, EFLAGS[31:30]. -/
def flagPL (b : Byte) : BitVec 2 := b.extractLsb' 6 2
/-- `ZF`, EFLAGS[29]. -/
def flagZF (b : Byte) : Bool := b.getLsbD 5
/-- `SF`, EFLAGS[28]. -/
def flagSF (b : Byte) : Bool := b.getLsbD 4
/-- `CF`, EFLAGS[27]. -/
def flagCF (b : Byte) : Bool := b.getLsbD 3
/-- `OF`, EFLAGS[26]. -/
def flagOF (b : Byte) : Bool := b.getLsbD 2
/-- `PF`, EFLAGS[25]. -/
def flagPF (b : Byte) : Bool := b.getLsbD 1
/-- `IF`, EFLAGS[24]. -/
def flagIF (b : Byte) : Bool := b.getLsbD 0

/-- The byte with its privilege level replaced. -/
def withPL (b : Byte) (pl : BitVec 2) : Byte :=
  packFlags pl (flagZF b) (flagSF b) (flagCF b) (flagOF b) (flagPF b) (flagIF b)

/-- The byte with its interrupt-enable flag replaced. -/
def withIF (b : Byte) (ie : Bool) : Byte :=
  packFlags (flagPL b) (flagZF b) (flagSF b) (flagCF b) (flagOF b) (flagPF b) ie

/-- The byte with its five arithmetic flags replaced. -/
def withArith (b : Byte) (f : ArithFlags) : Byte :=
  packFlags (flagPL b) f.zf f.sf f.cf f.of f.pf (flagIF b)

/-- The arithmetic flags of a byte. -/
def arithOf (b : Byte) : ArithFlags :=
  { zf := flagZF b, sf := flagSF b, cf := flagCF b, of := flagOF b, pf := flagPF b }

/-- Kernel mode, the privilege level 00 (R31). -/
def kernelPL : BitVec 2 := 0b00#2

/-- User mode, the privilege level 11 (R31). -/
def userPL : BitVec 2 := 0b11#2

/-- The final flags byte of IRET and SYSEXIT: the arithmetic flags of the popped byte, IF = 1 and
PL = 11 (R253). -/
def returnFlags (b : Byte) : Byte := withPL (withIF b true) userPL

/-! ## Flags of a result -/

/-- ZF: all 32 bits are 0 (R143). -/
def zeroFlag (r : Word) : Bool := decide (r = 0#32)

/-- SF: bit 31 (R143). -/
def signFlag (r : Word) : Bool := r.getLsbD 31

/-- PF: an even number of 1 bits in the least significant byte (R144). -/
def parityFlag (r : Word) : Bool :=
  !(r.getLsbD 0 ^^ r.getLsbD 1 ^^ r.getLsbD 2 ^^ r.getLsbD 3
    ^^ r.getLsbD 4 ^^ r.getLsbD 5 ^^ r.getLsbD 6 ^^ r.getLsbD 7)

/-- The flags of a result and its carry and overflow (R141, R143, R144). -/
def resultFlags (r : Word) (cf of : Bool) : ArithFlags :=
  { zf := zeroFlag r, sf := signFlag r, cf := cf, of := of, pf := parityFlag r }

/-- `Logic(r)`: carry and overflow cleared, zero, sign and parity from the result (R148). -/
def logicFlags (r : Word) : ArithFlags := resultFlags r false false

/-- The carry into bit position `k` of `a + b + cin`, the `c[k]` of R141: the low `k` bits of the sum
do not fit in `k` bits. -/
def carryInto (k : Nat) (a b : Word) (cin : Bool) : Bool :=
  decide (2 ^ k ≤ a.toNat % 2 ^ k + b.toNat % 2 ^ k + cin.toNat)

/-- The flags of the addition `a + b + cin` with result `r`: CF = c[32], OF = c[32] xor c[31] (R141, R142). -/
def addFlags (a b : Word) (cin : Bool) (r : Word) : ArithFlags :=
  resultFlags r (carryInto 32 a b cin) (carryInto 32 a b cin ^^ carryInto 31 a b cin)

/-! ## Conditions of the conditional jumps -/

/-- JZ, JE: ZF == 1 (R232). -/
def condZ (b : Byte) : Bool := flagZF b
/-- JNZ, JNE: ZF == 0 (R233). -/
def condNZ (b : Byte) : Bool := !flagZF b
/-- JG: ZF == 0 and OF == SF (R234). -/
def condG (b : Byte) : Bool := !flagZF b && (flagOF b == flagSF b)
/-- JGE: OF == SF (R235). -/
def condGE (b : Byte) : Bool := flagOF b == flagSF b
/-- JL: OF != SF (R236). -/
def condL (b : Byte) : Bool := flagOF b != flagSF b
/-- JLE: ZF == 1 and OF != SF, the source's words taken literally (R237, log entry 14). -/
def condLE (b : Byte) : Bool := flagZF b && (flagOF b != flagSF b)

end Sys2Proof.Machine
end

