-- ==== Sys2Proof/Machine/Alu.lean ====
section
/-! DEFINITION. The ALU (40 R140 to R152): each operation as the arithmetic function it equals. The
bit-level constructions the spec gives beside them are in `AluBits.lean`. -/

namespace Sys2Proof.Machine

/-- `Add32(a, b, cin)`: result `(u(a) + u(b) + cin) mod 2^32` (R141). -/
def add32 (a b : Word) (cin : Bool) : AluResult :=
  let r := BitVec.ofNat 32 (a.toNat + b.toNat + cin.toNat)
  { value := r, flags := addFlags a b cin r }

/-- `TC(b)`, the two's complement (R145). -/
def twosComp (b : Word) : Word := ~~~b + 1#32

/-- `sub(a, b) = Add32(a, TC(b), 0)` (R146). -/
def aluSub (a b : Word) : AluResult := add32 a (twosComp b) false

/-- `sbb(a, b) = Add32(a, TC(b), CF_in)`: the carry is added (R146, R164). -/
def aluSbb (a b : Word) (cin : Bool) : AluResult := add32 a (twosComp b) cin

/-- `neg(x) = Add32(~x, 1, 0)` (R147). -/
def aluNeg (x : Word) : AluResult := add32 (~~~x) 1#32 false

/-- A result with the flag rule of the bitwise operations (R148). -/
def logicResult (r : Word) : AluResult := { value := r, flags := logicFlags r }

/-- `and` (R148). -/
def aluAnd (a b : Word) : AluResult := logicResult (a &&& b)
/-- `or` (R148). -/
def aluOr (a b : Word) : AluResult := logicResult (a ||| b)
/-- `xor` (R148). -/
def aluXor (a b : Word) : AluResult := logicResult (a ^^^ b)
/-- `not` (R148). -/
def aluNot (a : Word) : AluResult := logicResult (~~~a)

/-- `mul`: `(u(a) * u(b)) mod 2^32`; CF = OF = 0 (R149, log entry 17). -/
def aluMul (a b : Word) : AluResult := logicResult (BitVec.ofNat 32 (a.toNat * b.toNat))

/-- The magnitude `|s(x)|`, 0 to 2^31 (R150). -/
def magnitude (x : Word) : Nat := if x.getLsbD 31 then 2 ^ 32 - x.toNat else x.toNat

/-- The quotient of `a` by a nonzero `b`: the quotient of the magnitudes, its sign applied after,
mod 2^32 (R150; the cases with 0x80000000 are log entry 13). -/
def quotient (a b : Word) : Word :=
  let qm := BitVec.ofNat 32 (magnitude a / magnitude b)
  if a.getLsbD 31 = b.getLsbD 31 then qm else twosComp qm

/-- `div`: raises DivisionByZero when the divisor is zero; CF = OF = 0 (R150). -/
def aluDiv (a b : Word) : Except Fault AluResult :=
  if b = 0#32 then .error .divisionByZero else .ok (logicResult (quotient a b))

/-- `shl`: `(u(a) * 2^n) mod 2^32` for `n < 32`, else 0; all 32 bits of the count count (R151). -/
def aluShl (a n : Word) : AluResult :=
  logicResult (if n.toNat < 32 then BitVec.ofNat 32 (a.toNat * 2 ^ n.toNat) else 0#32)

/-- `shr`: `floor(u(a) / 2^n)` for `n < 32`, else 0 (R151). -/
def aluShr (a n : Word) : AluResult :=
  logicResult (if n.toNat < 32 then BitVec.ofNat 32 (a.toNat / 2 ^ n.toNat) else 0#32)

end Sys2Proof.Machine
end

