-- ==== Sys2Proof/WellFormed.lean ====
section
/-! DEFINITION. Which instructions are as the opcode tables list them (30 R108, R112 to R115): the
slots an opcode uses are present, a write target is not an immediate, the slots it does not use are
`NO`, and register codes are 0 to 11 (R35). The machine also runs, or faults on, instructions that are
not well formed, as the handler rules say. -/

namespace Sys2Proof

/-- The operand columns of the opcode tables R113 to R115. -/
inductive Shape where
  /-- `src, tgt`: slot 1 is read, slot 2 is written. -/
  | srcTgt
  /-- `src, second`: both slots are read, none is written (CMP, R166). -/
  | srcSrc
  /-- `tgt`: slot 1 is written. -/
  | tgt
  /-- `src` or `addr`: slot 1 is read. -/
  | src
  /-- no operands. -/
  | none
deriving DecidableEq, Repr

/-- The operand shape of each instruction (R113 to R116). -/
def Instr.shape : Instr → Shape
  | .add _ _ | .adc _ _ | .sub _ _ | .sbb _ _ | .mul _ _ | .div _ _ => .srcTgt
  | .neg _ _ => .tgt
  | .cmp _ _ => .srcSrc
  | .and _ _ | .or _ _ | .xor _ _ => .srcTgt
  | .not _ _ => .tgt
  | .shl _ _ | .shr _ _ => .srcTgt
  | .mov _ _ => .srcTgt
  | .nop _ _ => .none
  | .push _ _ => .src
  | .pop _ _ => .tgt
  | .pushf _ _ | .popf _ _ | .cli _ _ | .sti _ _ => .none
  | .jmp _ _ | .jz _ _ | .je _ _ | .jnz _ _ | .jne _ _ => .src
  | .jg _ _ | .jge _ _ | .jl _ _ | .jle _ _ | .call _ _ => .src
  | .ret _ _ => .none
  | .int _ _ => .src
  | .iret _ _ => .none
  | .sysenter _ _ => .src
  | .sysexit _ _ => .none
  | .haltWord => .none

/-- The two operand slots of an instruction; the halt word has none. -/
def Instr.slots : Instr → Operand × Operand
  | .add a b | .adc a b | .sub a b | .sbb a b | .mul a b | .div a b | .neg a b | .cmp a b => (a, b)
  | .and a b | .or a b | .xor a b | .not a b | .shl a b | .shr a b => (a, b)
  | .mov a b | .nop a b | .push a b | .pop a b | .pushf a b | .popf a b | .cli a b | .sti a b => (a, b)
  | .jmp a b | .jz a b | .je a b | .jnz a b | .jne a b | .jg a b | .jge a b | .jl a b => (a, b)
  | .jle a b | .call a b | .ret a b | .int a b | .iret a b | .sysenter a b | .sysexit a b => (a, b)
  | .haltWord => (.no, .no)

/-- The slots the opcode needs are present (R276). -/
def Instr.presentOk (i : Instr) : Bool :=
  match i.shape with
  | .srcTgt | .srcSrc => !i.slots.1.isNo && !i.slots.2.isNo
  | .tgt | .src => !i.slots.1.isNo
  | .none => true

/-- The slot the opcode writes is not an immediate (R277). -/
def Instr.targetOk (i : Instr) : Bool :=
  match i.shape with
  | .srcTgt => !i.slots.2.isImm
  | .tgt => !i.slots.1.isImm
  | .srcSrc | .src | .none => true

/-- The slots the opcode does not use hold `NO` (R112). -/
def Instr.unusedOk (i : Instr) : Bool :=
  match i.shape with
  | .srcTgt | .srcSrc => true
  | .tgt | .src => i.slots.2.isNo
  | .none => i.slots.1.isNo && i.slots.2.isNo

/-- A register operand names one of the twelve registers (R35). -/
def Operand.regOk : Operand → Bool
  | .reg c => decide (c.toNat ≤ 11)
  | .regInd c => decide (c.toNat ≤ 11)
  | _ => true

/-- Both slots name registers that exist. -/
def Instr.regsOk (i : Instr) : Bool :=
  i.slots.1.regOk && i.slots.2.regOk

/-- An instruction as the opcode tables list it. -/
def Instr.wellFormed (i : Instr) : Bool :=
  i.presentOk && i.targetOk && i.unusedOk && i.regsOk

end Sys2Proof
end

