-- ==== Sys2Proof/Decode.lean ====
section
/-! DEFINITION. Decoding of instruction words (30 R101 to R119, 40 R133), total and rejecting by
name; the register codes (10 R35); and the encoder, written from the same tables. -/

namespace Sys2Proof

/-! ## Byte order and register codes -/

/-- The four bytes of a DoubleWord in address order: big-endian (20 R67). -/
def wordBytes (w : Word) : List Byte :=
  [w.extractLsb' 24 8, w.extractLsb' 16 8, w.extractLsb' 8 8, w.extractLsb' 0 8]

/-- The DoubleWord whose bytes, lowest address first, are the four given (20 R67). -/
def wordOfBytes (b0 b1 b2 b3 : Byte) : Word := b0 ++ b1 ++ b2 ++ b3

/-- The register a code names, codes 0 to 11 (R35). -/
def Reg.ofCode (code : Word) : Option Reg :=
  match code.toNat with
  | 0 => some .eax
  | 1 => some .ebx
  | 2 => some .ecx
  | 3 => some .eip
  | 4 => some .esp
  | 5 => some .eir
  | 6 => some .eflags
  | 7 => some .itp
  | 8 => some .ptp
  | 9 => some .nptp
  | 10 => some .gptp
  | 11 => some .vmptr
  | _ => none

/-- The code of a register (R35). -/
def Reg.code : Reg → Word
  | .eax => 0#32
  | .ebx => 1#32
  | .ecx => 2#32
  | .eip => 3#32
  | .esp => 4#32
  | .eir => 5#32
  | .eflags => 6#32
  | .itp => 7#32
  | .ptp => 8#32
  | .nptp => 9#32
  | .gptp => 10#32
  | .vmptr => 11#32

/-! ## The fields of word 0 (R101) -/

/-- `type`, `w0[31:29]`. -/
def fieldType (w0 : Word) : BitVec 3 := w0.extractLsb' 29 3
/-- `opcode`, `w0[26:20]`. -/
def fieldOpcode (w0 : Word) : BitVec 7 := w0.extractLsb' 20 7
/-- `mode1`, `w0[17:16]`. -/
def fieldMode1 (w0 : Word) : BitVec 2 := w0.extractLsb' 16 2
/-- `otype1`, `w0[15:9]`. -/
def fieldOtype1 (w0 : Word) : BitVec 7 := w0.extractLsb' 9 7
/-- `mode2`, `w0[8:7]`. -/
def fieldMode2 (w0 : Word) : BitVec 2 := w0.extractLsb' 7 2
/-- `otype2`, `w0[6:0]`. -/
def fieldOtype2 (w0 : Word) : BitVec 7 := w0.extractLsb' 0 7

/-! ## Decoding -/

/-- The R-type opcode table (R113). -/
def rTable (opcode : Nat) : Option (Operand → Operand → Instr) :=
  match opcode with
  | 0 => some .add
  | 1 => some .adc
  | 2 => some .sub
  | 3 => some .sbb
  | 4 => some .mul
  | 5 => some .div
  | 6 => some .neg
  | 7 => some .cmp
  | 8 => some .and
  | 9 => some .or
  | 10 => some .xor
  | 11 => some .not
  | 12 => some .shl
  | 13 => some .shr
  | _ => none

/-- The I-type opcode table (R114). -/
def iTable (opcode : Nat) : Option (Operand → Operand → Instr) :=
  match opcode with
  | 0 => some .mov
  | 1 => some .nop
  | 2 => some .push
  | 3 => some .pop
  | 4 => some .pushf
  | 5 => some .popf
  | 6 => some .cli
  | 7 => some .sti
  | _ => none

/-- The J-type opcode table (R115); JE and JNE have no words of their own (R124). -/
def jTable (opcode : Nat) : Option (Operand → Operand → Instr) :=
  match opcode with
  | 0 => some .jmp
  | 1 => some .jz
  | 2 => some .jnz
  | 3 => some .jg
  | 4 => some .jge
  | 5 => some .jl
  | 6 => some .jle
  | 7 => some .call
  | 8 => some .ret
  | 9 => some .int
  | 10 => some .iret
  | 11 => some .sysenter
  | 12 => some .sysexit
  | _ => none

/-- The instruction of a (type, opcode) pair (R103, R104): the tables of the three types are
disjoint and each type looks in its own. -/
def opcodeTable (type : BitVec 3) (opcode : BitVec 7) : Option (Operand → Operand → Instr) :=
  match type.toNat with
  | 4 => rTable opcode.toNat
  | 2 => iTable opcode.toNat
  | 1 => jTable opcode.toNat
  | _ => none

/-- The legal operand fields; the type is tested before the mode (R107). -/
def decodeSlot (mode : BitVec 2) (otype : BitVec 7) : Except DecodeError SlotKind :=
  if otype = 0x00#7 then
    if mode = 0b00#2 then .ok .no else .error .unrecognizedAddressingMode
  else if otype = 0x50#7 then
    if mode = 0b10#2 then .ok .imm else .error .unrecognizedAddressingMode
  else if otype = 0x60#7 then
    if mode = 0b10#2 then .ok .reg
    else if mode = 0b11#2 then .ok .regInd
    else .error .unrecognizedAddressingMode
  else if otype = 0x70#7 then
    if mode = 0b10#2 then .ok .mem else .error .unrecognizedAddressingMode
  else .error .unrecognizedOperandType

/-- Type and opcode of word 0, looked up (R117, R133). The delimiter bits are not examined (R102). -/
def decodeOpcode (w0 : Word) : Except DecodeError (Operand → Operand → Instr) :=
  match opcodeTable (fieldType w0) (fieldOpcode w0) with
  | some mk => .ok mk
  | none => .error .unrecognizedInstruction

/-- Slot 1 of word 0. -/
def decodeSlot1 (w0 : Word) : Except DecodeError SlotKind := decodeSlot (fieldMode1 w0) (fieldOtype1 w0)

/-- Slot 2 of word 0. -/
def decodeSlot2 (w0 : Word) : Except DecodeError SlotKind := decodeSlot (fieldMode2 w0) (fieldOtype2 w0)

/-- The instruction of three words: the halt test on word 0 alone first (R116), then type, opcode,
slot 1, slot 2 (R133). A `NO` slot's value word is not looked at (R112). -/
def decodeWords (w0 w1 w2 : Word) : Except DecodeError Instr :=
  if w0 = 0#32 then .ok .haltWord
  else do
    let mk ← decodeOpcode w0
    let k1 ← decodeSlot1 w0
    let k2 ← decodeSlot2 w0
    .ok (mk (k1.operand w1) (k2.operand w2))

/-- The instruction at the front of a list of bytes, lowest address first, and the bytes after it:
12 bytes (R119), or the 4 bytes of a halt word. -/
def decode (bytes : List Byte) : Except DecodeError (Instr × List Byte) :=
  match bytes with
  | a0 :: a1 :: a2 :: a3 :: rest =>
    if wordOfBytes a0 a1 a2 a3 = 0#32 then .ok (.haltWord, rest)
    else
      match rest with
      | b0 :: b1 :: b2 :: b3 :: c0 :: c1 :: c2 :: c3 :: rest' =>
        match decodeWords (wordOfBytes a0 a1 a2 a3) (wordOfBytes b0 b1 b2 b3) (wordOfBytes c0 c1 c2 c3) with
        | .ok i => .ok (i, rest')
        | .error e => .error e
      | _ => .error .truncated
  | _ => .error .truncated

/-! ## Encoding -/

/-- The 9-bit operand field of a slot: mode, then type (R105, R106). -/
def SlotKind.field : SlotKind → BitVec 9
  | .no => 0b00#2 ++ 0x00#7
  | .imm => 0b10#2 ++ 0x50#7
  | .reg => 0b10#2 ++ 0x60#7
  | .regInd => 0b11#2 ++ 0x60#7
  | .mem => 0b10#2 ++ 0x70#7

/-- The type code and the opcode of each instruction (R103, R113 to R115); the halt word has none. -/
def Instr.head : Instr → Option (BitVec 3 × BitVec 7)
  | .add _ _ => some (0b100#3, 0#7)
  | .adc _ _ => some (0b100#3, 1#7)
  | .sub _ _ => some (0b100#3, 2#7)
  | .sbb _ _ => some (0b100#3, 3#7)
  | .mul _ _ => some (0b100#3, 4#7)
  | .div _ _ => some (0b100#3, 5#7)
  | .neg _ _ => some (0b100#3, 6#7)
  | .cmp _ _ => some (0b100#3, 7#7)
  | .and _ _ => some (0b100#3, 8#7)
  | .or _ _ => some (0b100#3, 9#7)
  | .xor _ _ => some (0b100#3, 10#7)
  | .not _ _ => some (0b100#3, 11#7)
  | .shl _ _ => some (0b100#3, 12#7)
  | .shr _ _ => some (0b100#3, 13#7)
  | .mov _ _ => some (0b010#3, 0#7)
  | .nop _ _ => some (0b010#3, 1#7)
  | .push _ _ => some (0b010#3, 2#7)
  | .pop _ _ => some (0b010#3, 3#7)
  | .pushf _ _ => some (0b010#3, 4#7)
  | .popf _ _ => some (0b010#3, 5#7)
  | .cli _ _ => some (0b010#3, 6#7)
  | .sti _ _ => some (0b010#3, 7#7)
  | .jmp _ _ => some (0b001#3, 0#7)
  | .jz _ _ => some (0b001#3, 1#7)
  | .je _ _ => some (0b001#3, 1#7)
  | .jnz _ _ => some (0b001#3, 2#7)
  | .jne _ _ => some (0b001#3, 2#7)
  | .jg _ _ => some (0b001#3, 3#7)
  | .jge _ _ => some (0b001#3, 4#7)
  | .jl _ _ => some (0b001#3, 5#7)
  | .jle _ _ => some (0b001#3, 6#7)
  | .call _ _ => some (0b001#3, 7#7)
  | .ret _ _ => some (0b001#3, 8#7)
  | .int _ _ => some (0b001#3, 9#7)
  | .iret _ _ => some (0b001#3, 10#7)
  | .sysenter _ _ => some (0b001#3, 11#7)
  | .sysexit _ _ => some (0b001#3, 12#7)
  | .haltWord => none

/-- Word 0 from its fields; an encoder writes `11` in both delimiters (R101, R102). -/
def encodeWord0 (type : BitVec 3) (opcode : BitVec 7) (k1 k2 : SlotKind) : Word :=
  type ++ 0b11#2 ++ opcode ++ 0b11#2 ++ k1.field ++ k2.field

/-- The three words of an instruction (R100, R125). -/
def encode (i : Instr) : Word × Word × Word :=
  match i.head with
  | some (type, opcode) =>
    (encodeWord0 type opcode i.slots.1.kind i.slots.2.kind, i.slots.1.value, i.slots.2.value)
  | none => (0#32, 0#32, 0#32)

/-- The bytes of an instruction as memory holds them: three big-endian words (R100, R125). -/
def encodeBytes (i : Instr) : List Byte :=
  wordBytes (encode i).1 ++ wordBytes (encode i).2.1 ++ wordBytes (encode i).2.2

/-! ## The table's own numbering of an instruction's bits -/

/-- Word `k` of an instruction whose bits are `w`, bit 0 the least significant bit of the first word. -/
def tableWord (nbits w k : Nat) : Word := BitVec.ofNat 32 (w % 2 ^ nbits / 2 ^ (32 * k))

/-- The instruction the decoder reads from an instruction of `nbits` bits `w`, every bit above them
zero: the words are laid out big-endian and given to `decode`. -/
def decodeTableWord (nbits w : Nat) : Option Instr :=
  match decode (wordBytes (tableWord nbits w 0) ++ wordBytes (tableWord nbits w 1)
      ++ wordBytes (tableWord nbits w 2)) with
  | .ok (i, _) => some i
  | .error _ => none

end Sys2Proof
end

