-- ==== Sys2Proof/Machine/Memory.lean ====
section
/-! DEFINITION. The RAM as a canonical list of bytes (20 R60 to R67): byte reads and writes, and the
big-endian words composed from them. Addresses are exact physical byte addresses; bounds are checked
by the RAM port in `Ops.lean`. -/

namespace Sys2Proof.Machine

/-- What a byte reads as that nothing has written: zero (R61, R66). -/
def Memory.unlisted : Byte := 0#8

/-- `readByte` (R61). -/
def Memory.read : Memory → Nat → Byte
  | [], _ => Memory.unlisted
  | (a, b) :: rest, x => if a = x then b else Memory.read rest x

/-- The list without its entries at an address. -/
def Memory.erase : Memory → Nat → Memory
  | [], _ => []
  | (a, b) :: rest, x => if a = x then Memory.erase rest x else (a, b) :: Memory.erase rest x

/-- The list with an entry put before the first higher address. -/
def Memory.insert : Memory → Nat → Byte → Memory
  | [], x, v => [(x, v)]
  | (a, b) :: rest, x, v =>
    if x < a then (x, v) :: (a, b) :: rest else (a, b) :: Memory.insert rest x v

/-- `writeByte`: a byte equal to what an untouched cell reads removes the entry (R62). -/
def Memory.write (m : Memory) (x : Nat) (v : Byte) : Memory :=
  if v = Memory.unlisted then Memory.erase m x else Memory.insert (Memory.erase m x) x v

/-- The four bytes at `pa`, the lowest address most significant (R63, R67). -/
def Memory.readWord (m : Memory) (pa : Nat) : Word :=
  m.read pa ++ m.read (pa + 1) ++ m.read (pa + 2) ++ m.read (pa + 3)

/-- The four bytes of `v` stored at `pa`, the most significant at the lowest address (R64, R67). -/
def Memory.writeWord (m : Memory) (pa : Nat) (v : Word) : Memory :=
  (((m.write pa (v.extractLsb' 24 8)).write (pa + 1) (v.extractLsb' 16 8)).write (pa + 2)
    (v.extractLsb' 8 8)).write (pa + 3) (v.extractLsb' 0 8)

/-- The canonical form: addresses strictly rising, no entry equal to what an unlisted address reads as. -/
def Memory.wf : Memory → Bool
  | [] => true
  | (a, b) :: rest =>
    b != Memory.unlisted && rest.all (fun c => decide (a < c.1)) && Memory.wf rest

/-- Every entry lies at a legal address, 0 to CAPACITY (R65). -/
def Memory.within (m : Memory) (capacity : Word) : Bool :=
  m.all (fun c => decide (c.1 ≤ capacity.toNat))

end Sys2Proof.Machine
end

