-- ==== Sys2Proof/Machine/Ops.lean ====
section
/-! DEFINITION. The named operations over registers and memory: raw and checked register access
(40 R135, R136), the RAM port (20 R63 to R65), the MMU (20 R75 to R84), the access primitives (20 R85 to
R87), the stack (43 R216), the EIP advance (40 R153), the privilege check (60 R293), and trap entry and
return (60 R289, R290). An operation that can fault answers `Except Fault`; a fault carries no state,
so a faulting cycle changes nothing (R156). -/

namespace Sys2Proof.Machine

/-- The numeric fault codes (R271, log entry 10). -/
def Fault.code : Fault → Nat
  | .widthMismatch => 1
  | .unrecognizedInstruction => 2
  | .unrecognizedOperandType => 3
  | .unrecognizedAddressingMode => 4
  | .missingOperand => 5
  | .unsupportedOperandType => 6
  | .divisionByZero => 7
  | .privilegeViolation => 8
  | .registerNotWritableInUserMode => 9
  | .pageFault _ _ => 10
  | .addressOutOfRange _ => 11

/-- The outcome of a meaning: the next state, or the first fault raised (R130, R270). -/
def outcome (r : Except Fault State) : Host.Outcome State Fault Refusal :=
  match r with
  | .ok s => .next s
  | .error f => .fault f

/-! ## Raw register access -/

/-- EFLAGS as a 32-bit register: the flags byte above 24 zero bits (R30). -/
def State.eflags (s : State) : Word := s.flagsByte ++ 0#24

/-- `PL` (R31). -/
def State.pl (s : State) : BitVec 2 := flagPL s.flagsByte

/-- `CF`, read by ADC and SBB (R32). -/
def State.cf (s : State) : Bool := flagCF s.flagsByte

/-- The content of a register (R20); GPTP's is the stored one, present or not. -/
def State.getReg (s : State) : Reg → Word
  | .eax => s.eax
  | .ebx => s.ebx
  | .ecx => s.ecx
  | .eip => s.eip
  | .esp => s.esp
  | .eir => s.eir
  | .eflags => s.eflags
  | .itp => s.itp
  | .ptp => s.ptp
  | .nptp => s.nptp
  | .gptp => s.gptp
  | .vmptr => s.vmptr

/-- A raw write of a register, no check; EFLAGS takes `v[31:24]` only (R8, R30, R136). -/
def State.setReg (s : State) (r : Reg) (v : Word) : State :=
  match r with
  | .eax => { s with eax := v }
  | .ebx => { s with ebx := v }
  | .ecx => { s with ecx := v }
  | .eip => { s with eip := v }
  | .esp => { s with esp := v }
  | .eir => { s with eir := v }
  | .eflags => { s with flagsByte := v.extractLsb' 24 8 }
  | .itp => { s with itp := v }
  | .ptp => { s with ptp := v }
  | .nptp => { s with nptp := v }
  | .gptp => { s with gptp := v }
  | .vmptr => { s with vmptr := v }

/-- `x[EIP] <- v`. -/
def State.setEip (s : State) (v : Word) : State := { s with eip := v }
/-- `x[ESP] <- v`. -/
def State.setEsp (s : State) (v : Word) : State := { s with esp := v }
/-- `x[EIR] <- v`. -/
def State.setEir (s : State) (v : Word) : State := { s with eir := v }
/-- `EFLAGS[31:24] <- b`. -/
def State.setFlagsByte (s : State) (b : Byte) : State := { s with flagsByte := b }
/-- The RAM replaced. -/
def State.setRam (s : State) (m : Memory) : State := { s with ram := m }
/-- `PL <- pl`. -/
def State.setPL (s : State) (pl : BitVec 2) : State := s.setFlagsByte (withPL s.flagsByte pl)
/-- `IF <- ie`. -/
def State.setIF (s : State) (ie : Bool) : State := s.setFlagsByte (withIF s.flagsByte ie)
/-- `EFLAGS.{ZF,SF,CF,OF,PF} <- f` (R160 step 7). -/
def State.setArith (s : State) (f : ArithFlags) : State := s.setFlagsByte (withArith s.flagsByte f)

/-- The advance of EIP at the end of an instruction that is not a taken control transfer:
`(x[EIP] + 12) mod 2^32`, flags untouched (R153). -/
def State.advance (s : State) : State := s.setEip (s.eip + 12#32)

/-! ## Checked register access -/

/-- The registers an operand write may change at every privilege level: EAX, EBX, ECX, ESP (R35, R293). -/
def userWritable : Reg → Bool
  | .eax | .ebx | .ecx | .esp => true
  | .eip | .eir | .eflags | .itp | .ptp | .nptp | .gptp | .vmptr => false

/-- Is the register there? GPTP is present exactly when PG = 1 (R41). -/
def State.hasReg (s : State) (r : Reg) : Bool := r != .gptp || s.pg

/-- `RegRead(code)` (R135). -/
def regRead (s : State) (code : Word) : Except Fault Word :=
  match Reg.ofCode code with
  | none => .error .unrecognizedOperandType
  | some r => if s.hasReg r then .ok (s.getReg r) else .error .unsupportedOperandType

/-- `RegWrite(code, v)` (R136). -/
def regWrite (s : State) (code v : Word) : Except Fault State :=
  match Reg.ofCode code with
  | none => .error .unrecognizedOperandType
  | some r =>
    if s.hasReg r then
      if s.pl ≠ kernelPL ∧ userWritable r = false then .error .registerNotWritableInUserMode
      else .ok (s.setReg r v)
    else .error .unsupportedOperandType

/-! ## The RAM port -/

/-- The bounds check of an access to `pa, ..., pa + n - 1`, `n >= 1`: every byte address must be in
`[0, CAPACITY]`; sums are exact integers (R65). The lowest offending byte is reported (log entry 5). -/
def boundsCheck (s : State) (pa n : Nat) : Except Fault Unit :=
  if s.capacity.toNat < pa then .error (.addressOutOfRange pa)
  else if s.capacity.toNat < pa + (n - 1) then .error (.addressOutOfRange (s.capacity.toNat + 1))
  else .ok ()

/-- `PhysRead(pa, 1)` (R63). -/
def physRead8 (s : State) (pa : Nat) : Except Fault Byte := do
  boundsCheck s pa 1
  .ok (s.ram.read pa)

/-- `PhysRead(pa, 4)` (R63). -/
def physRead32 (s : State) (pa : Nat) : Except Fault Word := do
  boundsCheck s pa 4
  .ok (s.ram.readWord pa)

/-- `PhysWrite(pa, 1, v)` (R64). -/
def physWrite8 (s : State) (pa : Nat) (v : Byte) : Except Fault State := do
  boundsCheck s pa 1
  .ok (s.setRam (s.ram.write pa v))

/-- `PhysWrite(pa, 4, v)`: all four bounds are checked before any byte is written (R64). -/
def physWrite32 (s : State) (pa : Nat) (v : Word) : Except Fault State := do
  boundsCheck s pa 4
  .ok (s.setRam (s.ram.writeWord pa v))

/-! ## The MMU -/

/-- The page number `va[31:12]` (R76). -/
def pageNumber (va : Word) : BitVec 20 := va.extractLsb' 12 20

/-- The offset `va[11:0]` (R76). -/
def pageOffset (va : Word) : BitVec 12 := va.extractLsb' 0 12

/-- The physical address of a page's entry, `x[PTP] + pn * 4`, an exact integer (R78). -/
def pteAddr (s : State) (va : Word) : Nat := s.ptp.toNat + (pageNumber va).toNat * 4

/-- `PTE[31]` (R77). -/
def ptePresent (pte : Word) : Bool := pte.getLsbD 31
/-- `PTE[30]` (R77). -/
def pteWritable (pte : Word) : Bool := pte.getLsbD 30
/-- `PTE[29]` (R77). -/
def pteExecutable (pte : Word) : Bool := pte.getLsbD 29
/-- `PTE[28]` (R77). -/
def pteKernelOnly (pte : Word) : Bool := pte.getLsbD 28
/-- The twelve flag bits `PTE[31:20]` (R77). -/
def pteFlags (pte : Word) : BitVec 12 := pte.extractLsb' 20 12
/-- The frame number `PTE[19:0]` (R77). -/
def ptePfn (pte : Word) : BitVec 20 := pte.extractLsb' 0 20

/-- `Permitted(pte, kind, PL)` (R81): kernel mode is not exempt from writable and executable. -/
def permitted (pte : Word) (kind : Access) (pl : BitVec 2) : Bool :=
  (!pteKernelOnly pte || decide (pl = kernelPL))
    && (decide (kind ≠ .write) || pteWritable pte)
    && (decide (kind ≠ .execute) || pteExecutable pte)

/-- `Translate(va, kind)`: in real mode the address itself (R75); in paged mode the walk: read the
entry, test presence, test permission, concatenate frame and offset (R79 to R82). The walk writes
nothing (R83). -/
def mmuTranslate (s : State) (va : Word) (kind : Access) : Except Fault Nat :=
  if s.pg then do
    let pte ← physRead32 s (pteAddr s va)
    if ptePresent pte = false then
      .error (.pageFault (pteFlags pte) (BitVec.ofNat 32 (pteAddr s va)))
    else if permitted pte kind s.pl = false then .error .privilegeViolation
    else .ok (ptePfn pte ++ pageOffset va).toNat
  else .ok va.toNat

/-! ## The access primitives -/

/-- `MemRead(va, 4)` (R85): one translation, of the first byte (R84). -/
def memRead32 (s : State) (va : Word) : Except Fault Word := do
  let pa ← mmuTranslate s va .read
  physRead32 s pa

/-- `MemRead(va, 1)` (R85). -/
def memRead8 (s : State) (va : Word) : Except Fault Byte := do
  let pa ← mmuTranslate s va .read
  physRead8 s pa

/-- `MemWrite(va, 4, v)` (R86). -/
def memWrite32 (s : State) (va v : Word) : Except Fault State := do
  let pa ← mmuTranslate s va .write
  physWrite32 s pa v

/-- `MemWrite(va, 1, v)` (R86). -/
def memWrite8 (s : State) (va : Word) (v : Byte) : Except Fault State := do
  let pa ← mmuTranslate s va .write
  physWrite8 s pa v

/-- `MemFetch(va)`: access kind execute (R87). -/
def memFetch (s : State) (va : Word) : Except Fault Word := do
  let pa ← mmuTranslate s va .execute
  physRead32 s pa

/-! ## The stack (R216) -/

/-- Push a DoubleWord: ESP down by 4, then write at ESP. -/
def push32 (s : State) (v : Word) : Except Fault State :=
  memWrite32 (s.setEsp (s.esp - 4#32)) (s.esp - 4#32) v

/-- Push a flags byte: ESP down by 4, then write the one byte at ESP; the other three bytes of the
slot are not written (R214). -/
def push8 (s : State) (v : Byte) : Except Fault State :=
  memWrite8 (s.setEsp (s.esp - 4#32)) (s.esp - 4#32) v

/-- Pop a DoubleWord: read at ESP, then ESP up by 4. -/
def pop32 (s : State) : Except Fault (Word × State) := do
  let v ← memRead32 s s.esp
  .ok (v, s.setEsp (s.esp + 4#32))

/-- Pop a flags byte: read the one byte at ESP, then ESP up by 4 (R215). -/
def pop8 (s : State) : Except Fault (Byte × State) := do
  let b ← memRead8 s s.esp
  .ok (b, s.setEsp (s.esp + 4#32))

/-! ## Privilege, trap entry and trap return -/

/-- The test `PL == 00` of the kernel-only instructions (R293). -/
def requireKernel (s : State) : Except Fault Unit :=
  if s.pl = kernelPL then .ok () else .error .privilegeViolation

/-- Steps 2 and 3 of INT: `PL <- 00`, then `IF <- 0` (R252). -/
def State.enterKernel (s : State) : State := (s.setPL kernelPL).setIF false

/-- Trap entry, steps 2 to 7 of R252 (R289): kernel mode and IF = 0 first, then the target is
evaluated, the flags byte and the return address EIP + 12 are pushed, and EIP takes the target. Both
pushes run in kernel mode on the same stack; the saved byte holds PL = 00 and IF = 0. -/
def trapEnter (target : State → Except Fault Word) (s : State) : Except Fault State := do
  let s1 := s.enterKernel
  let t ← target s1
  let s2 ← push8 s1 s1.flagsByte
  let s3 ← push32 s2 (s2.eip + 12#32)
  .ok (s3.setEip t)

/-- Trap return, the steps of R253 (R290): kernel mode required; the return address and the flags byte
are popped, the arithmetic flags restored, IF set, user mode entered. -/
def trapReturn (s : State) : Except Fault State := do
  requireKernel s
  let (ra, s1) ← pop32 s
  let (b, s2) ← pop8 s1
  .ok ((s2.setFlagsByte (returnFlags b)).setEip ra)

end Sys2Proof.Machine
end

