-- ==== Sys2Proof/Machine/Operands.lean ====
section
/-! DEFINITION. Operand access (40 R137 to R139) and the checks every handler makes first (40 R154). -/

namespace Sys2Proof.Machine

/-- A slot the handler needs is not `NO`, else MissingOperand (R154, R276). -/
def requirePresent (op : Operand) : Except Fault Unit :=
  if op.isNo then .error .missingOperand else .ok ()

/-- The slot the handler will write is not an immediate, else UnsupportedOperandType (R154, R277). -/
def requireTarget (op : Operand) : Except Fault Unit :=
  if op.isImm then .error .unsupportedOperandType else .ok ()

/-- The virtual address of an operand that lies in memory: a MEM operand's value, or the content of
the register of an indirect one (R111, R137). The other forms lie nowhere in memory; for them the
fault is the one `WriteOp` raises on what is no target (R139). -/
def operandAddr (s : State) : Operand → Except Fault Word
  | .mem a => .ok a
  | .regInd c => regRead s c
  | .no => .error .missingOperand
  | .imm _ => .error .unsupportedOperandType
  | .reg _ => .error .unsupportedOperandType

/-- `SrcVal(op)`, the 32-bit data value of an operand (R137). -/
def srcVal (s : State) (op : Operand) : Except Fault Word :=
  match op with
  | .no => .error .missingOperand
  | .imm v => .ok v
  | .reg c => regRead s c
  | .mem _ => do
    let a ← operandAddr s op
    memRead32 s a
  | .regInd _ => do
    let a ← operandAddr s op
    memRead32 s a

/-- `AddrVal(op)`, the target of a control transfer: a MEM value is the address itself (R138). -/
def addrVal (s : State) (op : Operand) : Except Fault Word :=
  match op with
  | .no => .error .missingOperand
  | .imm v => .ok v
  | .mem a => .ok a
  | .reg c => regRead s c
  | .regInd _ => do
    let a ← operandAddr s op
    memRead32 s a

/-- `WriteOp(op, v)`, the write of a 32-bit value to a target operand (R139). -/
def writeOp (s : State) (op : Operand) (v : Word) : Except Fault State :=
  match op with
  | .no => .error .missingOperand
  | .imm _ => .error .unsupportedOperandType
  | .reg c => regWrite s c v
  | .mem _ => do
    let a ← operandAddr s op
    memWrite32 s a v
  | .regInd _ => do
    let a ← operandAddr s op
    memWrite32 s a v

/-- The two-operand ALU template (R160): checks, source, target, compute, write, then the flags; `f`
takes the carry flag before the instruction, the target's value and the source's value. -/
def aluTwo (f : Bool → Word → Word → Except Fault AluResult) (op1 op2 : Operand) (s : State) :
    Except Fault State := do
  requirePresent op1
  requirePresent op2
  requireTarget op2
  let b ← srcVal s op1
  let a ← srcVal s op2
  let r ← f s.cf a b
  let t ← writeOp s op2 r.value
  .ok (t.setArith r.flags).advance

/-- The one-operand template of NEG and NOT (R165, R194). -/
def aluOne (f : Word → AluResult) (op1 : Operand) (s : State) : Except Fault State := do
  requirePresent op1
  requireTarget op1
  let x ← srcVal s op1
  let t ← writeOp s op1 (f x).value
  .ok (t.setArith (f x).flags).advance

/-- The template of the conditional jumps (R232): the operand must be present, and is evaluated only
when the jump is taken. -/
def condJump (cond : Byte → Bool) (op1 : Operand) (s : State) : Except Fault State := do
  requirePresent op1
  if cond s.flagsByte then do
    let t ← addrVal s op1
    .ok (s.setEip t)
  else .ok s.advance

/-- The INT handler on an operand, steps 1 to 7 of R252: the target is `(x[ITP] + SrcVal(op)) mod 2^32`.
The INT instruction and the host's `int` (R301) are both this. -/
def interrupt (op : Operand) (s : State) : Except Fault State := do
  requirePresent op
  trapEnter (fun s1 => do
    let n ← srcVal s1 op
    .ok (s1.itp + n)) s

end Sys2Proof.Machine
end

