-- ==== Sys2Proof/Machine/Arithmetic.lean ====
section
/-! DEFINITION. The arithmetic instructions (41 R160 to R168). -/

namespace Sys2Proof.Machine

/-- ADD (R161): `tgt <- (tgt + src) mod 2^32`. -/
def execAdd (op1 op2 : Operand) (s : State) : Host.Outcome State Fault Refusal :=
  outcome (aluTwo (fun _ a b => .ok (add32 a b false)) op1 op2 s)

/-- ADC (R162): `tgt <- (tgt + src + CF) mod 2^32`, CF as before the instruction. -/
def execAdc (op1 op2 : Operand) (s : State) : Host.Outcome State Fault Refusal :=
  outcome (aluTwo (fun c a b => .ok (add32 a b c)) op1 op2 s)

/-- SUB (R163): `tgt <- (tgt - src) mod 2^32`. -/
def execSub (op1 op2 : Operand) (s : State) : Host.Outcome State Fault Refusal :=
  outcome (aluTwo (fun _ a b => .ok (aluSub a b)) op1 op2 s)

/-- SBB (R164): `tgt <- (tgt - src + CF) mod 2^32`: the carry is added. -/
def execSbb (op1 op2 : Operand) (s : State) : Host.Outcome State Fault Refusal :=
  outcome (aluTwo (fun c a b => .ok (aluSbb a b c)) op1 op2 s)

/-- MUL (R167): `tgt <- (tgt * src) mod 2^32`. -/
def execMul (op1 op2 : Operand) (s : State) : Host.Outcome State Fault Refusal :=
  outcome (aluTwo (fun _ a b => .ok (aluMul a b)) op1 op2 s)

/-- DIV (R168): `tgt <- trunc(s(tgt) / s(src))`; DivisionByZero after both reads, before the write. -/
def execDiv (op1 op2 : Operand) (s : State) : Host.Outcome State Fault Refusal :=
  outcome (aluTwo (fun _ a b => aluDiv a b) op1 op2 s)

/-- NEG (R165): `tgt <- (0 - tgt) mod 2^32`. Slot 2 is ignored (R118). -/
def execNeg (op1 _op2 : Operand) (s : State) : Host.Outcome State Fault Refusal :=
  outcome (aluOne aluNeg op1 s)

/-- CMP (R166): the flags of `op2 - op1`; nothing is written, so an immediate second operand is accepted. -/
def execCmp (op1 op2 : Operand) (s : State) : Host.Outcome State Fault Refusal :=
  outcome (do
    requirePresent op1
    requirePresent op2
    let b ← srcVal s op1
    let a ← srcVal s op2
    .ok (s.setArith (aluSub a b).flags).advance)

end Sys2Proof.Machine
end

