-- ==== Sys2Proof/Machine/Control.lean ====
section
/-! DEFINITION. The control-flow instructions (44 R230 to R240) and the halt word (R116, R132). No flag
changes (R157); a taken transfer writes EIP and is not followed by the advance (R153). -/

namespace Sys2Proof.Machine

/-- JMP (R231). -/
def execJmp (op1 _op2 : Operand) (s : State) : Host.Outcome State Fault Refusal :=
  outcome (do
    requirePresent op1
    let t ← addrVal s op1
    .ok (s.setEip t))

/-- JZ (R232). -/
def execJz (op1 _op2 : Operand) (s : State) : Host.Outcome State Fault Refusal :=
  outcome (condJump condZ op1 s)

/-- JE, the alias of JZ (R124, R232). -/
def execJe (op1 _op2 : Operand) (s : State) : Host.Outcome State Fault Refusal :=
  outcome (condJump condZ op1 s)

/-- JNZ (R233). -/
def execJnz (op1 _op2 : Operand) (s : State) : Host.Outcome State Fault Refusal :=
  outcome (condJump condNZ op1 s)

/-- JNE, the alias of JNZ (R124, R233). -/
def execJne (op1 _op2 : Operand) (s : State) : Host.Outcome State Fault Refusal :=
  outcome (condJump condNZ op1 s)

/-- JG (R234). -/
def execJg (op1 _op2 : Operand) (s : State) : Host.Outcome State Fault Refusal :=
  outcome (condJump condG op1 s)

/-- JGE (R235). -/
def execJge (op1 _op2 : Operand) (s : State) : Host.Outcome State Fault Refusal :=
  outcome (condJump condGE op1 s)

/-- JL (R236). -/
def execJl (op1 _op2 : Operand) (s : State) : Host.Outcome State Fault Refusal :=
  outcome (condJump condL op1 s)

/-- JLE (R237). -/
def execJle (op1 _op2 : Operand) (s : State) : Host.Outcome State Fault Refusal :=
  outcome (condJump condLE op1 s)

/-- CALL (R238): push EIP + 12, then EIP takes the target, which is evaluated after the push. -/
def execCall (op1 _op2 : Operand) (s : State) : Host.Outcome State Fault Refusal :=
  outcome (do
    requirePresent op1
    let s1 ← push32 s (s.eip + 12#32)
    let t ← addrVal s1 op1
    .ok (s1.setEip t))

/-- RET (R239): pop EIP. -/
def execRet (_op1 _op2 : Operand) (s : State) : Host.Outcome State Fault Refusal :=
  outcome (do
    let (ra, s1) ← pop32 s
    .ok (s1.setEip ra))

/-- The halt word (R132): the cycle ends as `halt`; EIP still addresses the zero word, which EIR already
holds, and nothing else changes. The core keeps no memory of it: the next step fetches the same word
again. That the host sees `halt` and not `next` is `cycle` of `HostPort.lean` (log entry 7). -/
def execHaltWord (s : State) : Host.Outcome State Fault Refusal :=
  .next s

end Sys2Proof.Machine
end

