-- ==== Sys2Proof/Machine/Logic.lean ====
section
/-! DEFINITION. The logic and shift instructions (42 R190 to R196). -/

namespace Sys2Proof.Machine

/-- AND (R191): `tgt <- tgt and src`. -/
def execAnd (op1 op2 : Operand) (s : State) : Host.Outcome State Fault Refusal :=
  outcome (aluTwo (fun _ a b => .ok (aluAnd a b)) op1 op2 s)

/-- OR (R192): `tgt <- tgt or src`. -/
def execOr (op1 op2 : Operand) (s : State) : Host.Outcome State Fault Refusal :=
  outcome (aluTwo (fun _ a b => .ok (aluOr a b)) op1 op2 s)

/-- XOR (R193): `tgt <- tgt xor src`. -/
def execXor (op1 op2 : Operand) (s : State) : Host.Outcome State Fault Refusal :=
  outcome (aluTwo (fun _ a b => .ok (aluXor a b)) op1 op2 s)

/-- NOT (R194): `tgt <- not tgt`, with the flags of a logical operation. Slot 2 is ignored (R118). -/
def execNot (op1 _op2 : Operand) (s : State) : Host.Outcome State Fault Refusal :=
  outcome (aluOne aluNot op1 s)

/-- SHL (R195): `tgt <- (tgt * 2^n) mod 2^32`, 0 for `n >= 32`; the count is the source. -/
def execShl (op1 op2 : Operand) (s : State) : Host.Outcome State Fault Refusal :=
  outcome (aluTwo (fun _ a n => .ok (aluShl a n)) op1 op2 s)

/-- SHR (R196): `tgt <- floor(tgt / 2^n)`, 0 for `n >= 32`; the count is the source. -/
def execShr (op1 op2 : Operand) (s : State) : Host.Outcome State Fault Refusal :=
  outcome (aluTwo (fun _ a n => .ok (aluShr a n)) op1 op2 s)

end Sys2Proof.Machine
end

