-- ==== Sys2Proof/Machine/MoveStack.lean ====
section
/-! DEFINITION. The data movement and stack instructions (43 R210 to R216). None but POPF changes a flag (R157). -/

namespace Sys2Proof.Machine

/-- MOV (R210): `tgt <- src`, no flag changed; memory to memory is legal. -/
def execMov (op1 op2 : Operand) (s : State) : Host.Outcome State Fault Refusal :=
  outcome (do
    requirePresent op1
    requirePresent op2
    requireTarget op2
    let v ← srcVal s op1
    let t ← writeOp s op2 v
    .ok t.advance)

/-- NOP (R211): only the EIP advance; operands are ignored (R118). -/
def execNop (_op1 _op2 : Operand) (s : State) : Host.Outcome State Fault Refusal :=
  .next s.advance

/-- PUSH (R212): ESP is decremented first, so the source sees the new ESP. -/
def execPush (op1 _op2 : Operand) (s : State) : Host.Outcome State Fault Refusal :=
  outcome (do
    requirePresent op1
    let v ← srcVal (s.setEsp (s.esp - 4#32)) op1
    let t ← push32 s v
    .ok t.advance)

/-- POP (R213): read at ESP, write the target, then add 4 to the ESP the write left. -/
def execPop (op1 _op2 : Operand) (s : State) : Host.Outcome State Fault Refusal :=
  outcome (do
    requirePresent op1
    requireTarget op1
    let v ← memRead32 s s.esp
    let t ← writeOp s op1 v
    .ok (t.setEsp (t.esp + 4#32)).advance)

/-- PUSHF (R214): kernel mode; one byte of a 4-byte slot is written. -/
def execPushf (_op1 _op2 : Operand) (s : State) : Host.Outcome State Fault Refusal :=
  outcome (do
    requireKernel s
    let t ← push8 s s.flagsByte
    .ok t.advance)

/-- POPF (R215): kernel mode; one byte is read at ESP and loaded into the flags byte, PL included. -/
def execPopf (_op1 _op2 : Operand) (s : State) : Host.Outcome State Fault Refusal :=
  outcome (do
    requireKernel s
    let (b, t) ← pop8 s
    .ok (t.setFlagsByte b).advance)

end Sys2Proof.Machine
end

