-- ==== Sys2Proof/Machine/System.lean ====
section
/-! DEFINITION. The system instructions (45 R250 to R256). -/

namespace Sys2Proof.Machine

/-- CLI (R250): kernel mode; `IF <- 0`. -/
def execCli (_op1 _op2 : Operand) (s : State) : Host.Outcome State Fault Refusal :=
  outcome (do
    requireKernel s
    .ok (s.setIF false).advance)

/-- STI (R251): kernel mode; `IF <- 1`. -/
def execSti (_op1 _op2 : Operand) (s : State) : Host.Outcome State Fault Refusal :=
  outcome (do
    requireKernel s
    .ok (s.setIF true).advance)

/-- INT (R252): trap entry at `ITP + n`, `n` the data value of the operand; legal at every level. -/
def execInt (op1 _op2 : Operand) (s : State) : Host.Outcome State Fault Refusal :=
  outcome (interrupt op1 s)

/-- IRET (R253): trap return. -/
def execIret (_op1 _op2 : Operand) (s : State) : Host.Outcome State Fault Refusal :=
  outcome (trapReturn s)

/-- SYSENTER (R254): trap entry at the operand itself; ITP is not read. -/
def execSysenter (op1 _op2 : Operand) (s : State) : Host.Outcome State Fault Refusal :=
  outcome (do
    requirePresent op1
    trapEnter (fun s1 => addrVal s1 op1) s)

/-- SYSEXIT (R255): identical to IRET. -/
def execSysexit (_op1 _op2 : Operand) (s : State) : Host.Outcome State Fault Refusal :=
  outcome (trapReturn s)

end Sys2Proof.Machine
end

