-- ==== Sys2Proof/Machine/Dispatch.lean ====
section
/-! DEFINITION. One arm per instruction, each a direct call of its meaning. -/

namespace Sys2Proof.Machine

def exec (i : Instr) (s : State) : Host.Outcome State Fault Refusal :=
  match i with
  | .add op1 op2 => Sys2Proof.Machine.execAdd op1 op2 s
  | .adc op1 op2 => Sys2Proof.Machine.execAdc op1 op2 s
  | .sub op1 op2 => Sys2Proof.Machine.execSub op1 op2 s
  | .sbb op1 op2 => Sys2Proof.Machine.execSbb op1 op2 s
  | .mul op1 op2 => Sys2Proof.Machine.execMul op1 op2 s
  | .div op1 op2 => Sys2Proof.Machine.execDiv op1 op2 s
  | .neg op1 op2 => Sys2Proof.Machine.execNeg op1 op2 s
  | .cmp op1 op2 => Sys2Proof.Machine.execCmp op1 op2 s
  | .and op1 op2 => Sys2Proof.Machine.execAnd op1 op2 s
  | .or op1 op2 => Sys2Proof.Machine.execOr op1 op2 s
  | .xor op1 op2 => Sys2Proof.Machine.execXor op1 op2 s
  | .not op1 op2 => Sys2Proof.Machine.execNot op1 op2 s
  | .shl op1 op2 => Sys2Proof.Machine.execShl op1 op2 s
  | .shr op1 op2 => Sys2Proof.Machine.execShr op1 op2 s
  | .mov op1 op2 => Sys2Proof.Machine.execMov op1 op2 s
  | .nop op1 op2 => Sys2Proof.Machine.execNop op1 op2 s
  | .push op1 op2 => Sys2Proof.Machine.execPush op1 op2 s
  | .pop op1 op2 => Sys2Proof.Machine.execPop op1 op2 s
  | .pushf op1 op2 => Sys2Proof.Machine.execPushf op1 op2 s
  | .popf op1 op2 => Sys2Proof.Machine.execPopf op1 op2 s
  | .cli op1 op2 => Sys2Proof.Machine.execCli op1 op2 s
  | .sti op1 op2 => Sys2Proof.Machine.execSti op1 op2 s
  | .jmp op1 op2 => Sys2Proof.Machine.execJmp op1 op2 s
  | .jz op1 op2 => Sys2Proof.Machine.execJz op1 op2 s
  | .je op1 op2 => Sys2Proof.Machine.execJe op1 op2 s
  | .jnz op1 op2 => Sys2Proof.Machine.execJnz op1 op2 s
  | .jne op1 op2 => Sys2Proof.Machine.execJne op1 op2 s
  | .jg op1 op2 => Sys2Proof.Machine.execJg op1 op2 s
  | .jge op1 op2 => Sys2Proof.Machine.execJge op1 op2 s
  | .jl op1 op2 => Sys2Proof.Machine.execJl op1 op2 s
  | .jle op1 op2 => Sys2Proof.Machine.execJle op1 op2 s
  | .call op1 op2 => Sys2Proof.Machine.execCall op1 op2 s
  | .ret op1 op2 => Sys2Proof.Machine.execRet op1 op2 s
  | .int op1 op2 => Sys2Proof.Machine.execInt op1 op2 s
  | .iret op1 op2 => Sys2Proof.Machine.execIret op1 op2 s
  | .sysenter op1 op2 => Sys2Proof.Machine.execSysenter op1 op2 s
  | .sysexit op1 op2 => Sys2Proof.Machine.execSysexit op1 op2 s
  | .haltWord => Sys2Proof.Machine.execHaltWord s

end Sys2Proof.Machine
end

