-- ==== Sys2Proof/Machine/Fetch.lean ====
section
/-! DEFINITION. Fetching an instruction through the MMU (40 R131, R133, R134): word 0, then each operand
slot checked and, if it is not `NO`, its value word fetched, slot 1 wholly before slot 2. -/

namespace Sys2Proof.Machine

/-- The fault a decode error is (R117, R273 to R275). `truncated` cannot arise from memory; it has the
fault of an instruction that is not there. -/
def faultOfDecode : DecodeError → Fault
  | .unrecognizedInstruction => .unrecognizedInstruction
  | .unrecognizedOperandType => .unrecognizedOperandType
  | .unrecognizedAddressingMode => .unrecognizedAddressingMode
  | .truncated => .unrecognizedInstruction

/-- A decode result as the machine's own. -/
def ofDecode {α : Type} (r : Except DecodeError α) : Except Fault α :=
  match r with
  | .ok x => .ok x
  | .error e => .error (faultOfDecode e)

/-- Fetch of word 0 at EIP (R131). -/
def fetchWord0 (s : State) : Except Fault Word := memFetch s s.eip

/-- One operand slot: its decoded kind, then its value word at `EIP + offset` mod 2^32, access kind
execute; a `NO` slot's word is not read (R133, R134). -/
def fetchOperand (s : State) (slot : Except DecodeError SlotKind) (offset : Word) :
    Except Fault Operand := do
  let k ← ofDecode slot
  if k = .no then .ok .no
  else do
    let v ← memFetch s (s.eip + offset)
    .ok (k.operand v)

/-- The rest of fetch and decode once word 0 is known: the halt test (R132), type and opcode, slot 1,
slot 2 (R133). -/
def fetchInstr (s : State) (w0 : Word) : Except Fault Instr :=
  if w0 = 0#32 then .ok .haltWord
  else do
    let mk ← ofDecode (decodeOpcode w0)
    let op1 ← fetchOperand s (decodeSlot1 w0) 4#32
    let op2 ← fetchOperand s (decodeSlot2 w0) 8#32
    .ok (mk op1 op2)

/-- The state in which an instruction is decoded and run: EIR holds its word 0 (R131). -/
def fetched (s : State) (w0 : Word) : State := s.setEir w0

/-- Store a word where the fetch at virtual address `va` reads it: translated as a fetch is, and
inside the RAM; otherwise nothing is stored. -/
def placeWord (s : State) (va v : Word) : State :=
  match mmuTranslate s va .execute with
  | .ok pa =>
    match physWrite32 s pa v with
    | .ok t => t
    | .error _ => s
  | .error _ => s

/-- The three words of a table instruction stored at EIP, EIP + 4 and EIP + 8 (R100, R134). -/
def placeInstr (s : State) (nbits w : Nat) : State :=
  let s0 := placeWord s s.eip (tableWord nbits w 0)
  let s1 := placeWord s0 (s.eip + 4#32) (tableWord nbits w 1)
  placeWord s1 (s.eip + 8#32) (tableWord nbits w 2)

end Sys2Proof.Machine
end

