-- ==== Sys2Proof/Machine/Step.lean ====
section
/-! DEFINITION. One cycle of the core (40 R130): fetch word 0, write EIR, decode and fetch the operand
words, run the handler. The EIP advance is part of each meaning (R153). -/

namespace Sys2Proof.Machine

/-- The host's `cycle` (R130, R296): fetch, decode, execute, to completion. -/
def step (s : State) : Host.Outcome State Fault Refusal :=
  match fetchWord0 s with
  | .error f => .fault f
  | .ok w0 =>
    match fetchInstr (fetched s w0) w0 with
    | .error f => .fault f
    | .ok i => exec i (fetched s w0)

/-- The state with an instruction of the opcode table stored where the next step fetches it (log entry 2). -/
def State.withFetchWord (s : State) (nbits w : Nat) : State := placeInstr s nbits w

end Sys2Proof.Machine
end

