-- ==== Sys2Proof/Machine/AluBits.lean ====
section
/-! DEFINITION. The bit-level constructions of the ALU: the ripple-carry chain (R141), the Booth
multiplier over a 65-bit register (R149) and the restoring divider (R150). The meanings use the
arithmetic functions of `Alu.lean`; that the two agree is stated, not assumed. -/

namespace Sys2Proof.Machine

/-! ## The ripple-carry adder (R141) -/

/-- The carry chain: `c[0] = cin`, `c[i+1]` the majority of `a[i]`, `b[i]`, `c[i]`. -/
def rippleCarry (a b : Word) (cin : Bool) : Nat → Bool
  | 0 => cin
  | i + 1 =>
    let c := rippleCarry a b cin i
    (a.getLsbD i && b.getLsbD i) || (a.getLsbD i && c) || (b.getLsbD i && c)

/-- The low `n` result bits of the chain, `r[i] = a[i] xor b[i] xor c[i]`, as a number. -/
def rippleSum (a b : Word) (cin : Bool) : Nat → Nat
  | 0 => 0
  | i + 1 =>
    rippleSum a b cin i + (a.getLsbD i ^^ b.getLsbD i ^^ rippleCarry a b cin i).toNat * 2 ^ i

/-- `Add32` as the ripple-carry chain builds it (R141, R142). -/
def rippleAdd32 (a b : Word) (cin : Bool) : AluResult :=
  let r := BitVec.ofNat 32 (rippleSum a b cin 32)
  let c31 := rippleCarry a b cin 31
  let c32 := rippleCarry a b cin 32
  { value := r, flags := resultFlags r c32 (c32 ^^ c31) }

/-! ## The Booth multiplier (R149) -/

/-- One round on the 65-bit register `A ++ Q ++ q`: subtract or add the multiplicand, then shift the
whole register right by one, keeping `A[31]`. -/
def boothRound (a : Word) (x : Word × Word × Bool) : Word × Word × Bool :=
  let acc :=
    if x.2.1.getLsbD 0 && !x.2.2 then x.1 - a
    else if !x.2.1.getLsbD 0 && x.2.2 then x.1 + a
    else x.1
  (acc.sshiftRight 1, acc.extractLsb' 0 1 ++ x.2.1.extractLsb' 1 31, x.2.1.getLsbD 0)

/-- `n` rounds from `A = 0`, `Q = b`, `q = 0`. -/
def boothRounds (a b : Word) : Nat → Word × Word × Bool
  | 0 => (0#32, b, false)
  | n + 1 => boothRound a (boothRounds a b n)

/-- The multiplier's result: `Q` after 32 rounds (R149). -/
def boothMul (a b : Word) : Word := (boothRounds a b 32).2.1

/-! ## The restoring divider (R150) -/

/-- The divider's remainder and quotient after the `n` most significant of 32 dividend bits:
`R = 2R + ma[i]`, and if `R >= mb` then subtract and set the quotient bit. -/
def restoringRounds (ma mb : Nat) : Nat → Nat × Nat
  | 0 => (0, 0)
  | n + 1 =>
    let x := restoringRounds ma mb n
    let r := 2 * x.1 + ma / 2 ^ (31 - n) % 2
    if mb ≤ r then (r - mb, 2 * x.2 + 1) else (r, 2 * x.2)

/-- The quotient the restoring divider delivers for two magnitudes (R150). -/
def restoringDiv (ma mb : Nat) : Nat := (restoringRounds ma mb 32).2

end Sys2Proof.Machine
end

