-- ==== Sys2Proof/Machine/Assembler.lean ====
section
/-! DEFINITION. The two-pass assembler (30 R120 to R126): software outside CORE whose rules the spec keeps
because they define what the words mean. A source line is given already split into a label, a
mnemonic with its operand texts, or nothing: the patterns that split it are in a data file the source
does not contain (91 N3; log entries 25, 26, 29 and 30). -/

namespace Sys2Proof.Machine

/-- One line of the source file (R120, R122, R123). -/
inductive AsmLine where
  /-- A blank or comment line; pass 1 strips it, and it still counts as a source line (log entry 30). -/
  | blank
  /-- A label declaration, on a line of its own; it takes no instruction slot. -/
  | label (name : List Char)
  /-- An instruction: its mnemonic in upper case and its operand texts, source before target. -/
  | instr (mnemonic : List Char) (operands : List (List Char))
deriving DecidableEq, Repr

/-- The instruction of a line: its mnemonic and operand texts; a label or blank line has none. -/
def AsmLine.instr? : AsmLine → Option (List Char × List (List Char))
  | .blank => none
  | .label _ => none
  | .instr mnemonic operands => some (mnemonic, operands)

/-- The assembler's error: UnrecognizedInstruction naming the 1-based source line (R126), counted over
every line of the source, label and blank lines too (log entry 30). -/
inductive AsmError where
  | unrecognizedInstruction (line : Nat)
deriving DecidableEq, Repr

/-- The value of a digit character below a base. R121 shows hexadecimal literals and is silent on the case
of their digits: the model takes either case (DESIGN CHOICE, log entry 29). -/
def digitValue (base : Nat) (c : Char) : Option Nat :=
  let n :=
    if '0'.toNat ≤ c.toNat ∧ c.toNat ≤ '9'.toNat then c.toNat - '0'.toNat
    else if 'a'.toNat ≤ c.toNat ∧ c.toNat ≤ 'f'.toNat then c.toNat - 'a'.toNat + 10
    else if 'A'.toNat ≤ c.toNat ∧ c.toNat ≤ 'F'.toNat then c.toNat - 'A'.toNat + 10
    else base
  if n < base then some n else none

/-- A nonempty string of digits read in a base, continuing from a value. -/
def digitsFrom (base : Nat) : Nat → List Char → Option Nat
  | acc, [] => some acc
  | acc, c :: rest => (digitValue base c).bind (fun d => digitsFrom base (acc * base + d) rest)

/-- A nonempty string of digits in a base. -/
def parseDigits (base : Nat) (cs : List Char) : Option Nat :=
  if cs = [] then none else digitsFrom base 0 cs

/-- An unsigned literal: `0b`, `0x` or decimal (R121). The prefixes are lower case as R121 prints them, at
least one digit follows, and leading zeros are taken: DESIGN CHOICE where R121 is silent (log entry 29). -/
def parseNat : List Char → Option Nat
  | '0' :: 'b' :: rest => parseDigits 2 rest
  | '0' :: 'x' :: rest => parseDigits 16 rest
  | cs => parseDigits 10 cs

/-- A 32-bit unsigned literal; a larger one is rejected (log entry 25). -/
def parseUnsigned (cs : List Char) : Option Word :=
  (parseNat cs).bind (fun n => if n < 2 ^ 32 then some (BitVec.ofNat 32 n) else none)

/-- An immediate literal: unsigned, or `-` and a magnitude up to 2^31 as its two's complement (R109, R121).
R121 is silent on a sign before `0b` or `0x`: the model takes `-0b` and `-0x`, no `+` and no second sign, and
`-0` is 0 (DESIGN CHOICE, log entry 29). -/
def parseImm : List Char → Option Word
  | '-' :: rest =>
    (parseNat rest).bind (fun n => if n ≤ 2 ^ 31 then some (~~~(BitVec.ofNat 32 n) + 1#32) else none)
  | cs => parseUnsigned cs

/-- The register spellings, lower case (R121; PRESUMED by analogy for all but `eax`, log entry 25). -/
def registerNames : List (List Char × Reg) :=
  [(['e', 'a', 'x'], .eax), (['e', 'b', 'x'], .ebx), (['e', 'c', 'x'], .ecx), (['e', 'i', 'p'], .eip),
   (['e', 's', 'p'], .esp), (['e', 'i', 'r'], .eir), (['e', 'f', 'l', 'a', 'g', 's'], .eflags),
   (['i', 't', 'p'], .itp), (['p', 't', 'p'], .ptp), (['n', 'p', 't', 'p'], .nptp),
   (['g', 'p', 't', 'p'], .gptp), (['v', 'm', 'p', 't', 'r'], .vmptr)]

/-- The code of a register's spelling (R111). -/
def parseRegister (cs : List Char) : Option Word :=
  (registerNames.lookup cs).map Reg.code

/-- An operand text: dispatch on its prefix; `*@` and `*$` are rejected; a bare name is a label and
becomes a MEM operand with the label's address (R110, R121). -/
def parseOperand (labels : List (List Char × Word)) : List Char → Option Operand
  | '$' :: rest => (parseImm rest).map .imm
  | '@' :: rest => (parseUnsigned rest).map .mem
  | '%' :: rest => (parseRegister rest).map .reg
  | '*' :: '%' :: rest => (parseRegister rest).map .regInd
  | '*' :: _ => none
  | cs => (labels.lookup cs).map .mem

/-- The mnemonics (R113 to R115, R124): JE and JNE are spellings of JZ and JNZ. -/
def mnemonicTable : List (List Char × (Operand → Operand → Instr)) :=
  [(['A', 'D', 'D'], .add), (['A', 'D', 'C'], .adc), (['S', 'U', 'B'], .sub), (['S', 'B', 'B'], .sbb),
   (['M', 'U', 'L'], .mul), (['D', 'I', 'V'], .div), (['N', 'E', 'G'], .neg), (['C', 'M', 'P'], .cmp),
   (['A', 'N', 'D'], .and), (['O', 'R'], .or), (['X', 'O', 'R'], .xor), (['N', 'O', 'T'], .not),
   (['S', 'H', 'L'], .shl), (['S', 'H', 'R'], .shr), (['M', 'O', 'V'], .mov), (['N', 'O', 'P'], .nop),
   (['P', 'U', 'S', 'H'], .push), (['P', 'O', 'P'], .pop), (['P', 'U', 'S', 'H', 'F'], .pushf),
   (['P', 'O', 'P', 'F'], .popf), (['C', 'L', 'I'], .cli), (['S', 'T', 'I'], .sti),
   (['J', 'M', 'P'], .jmp), (['J', 'Z'], .jz), (['J', 'E'], .je), (['J', 'N', 'Z'], .jnz),
   (['J', 'N', 'E'], .jne), (['J', 'G'], .jg), (['J', 'G', 'E'], .jge), (['J', 'L'], .jl),
   (['J', 'L', 'E'], .jle), (['C', 'A', 'L', 'L'], .call), (['R', 'E', 'T'], .ret), (['I', 'N', 'T'], .int),
   (['I', 'R', 'E', 'T'], .iret), (['S', 'Y', 'S', 'E', 'N', 'T', 'E', 'R'], .sysenter),
   (['S', 'Y', 'S', 'E', 'X', 'I', 'T'], .sysexit)]

/-- An instruction from its mnemonic and operands; the slots it does not list are `NO`. It is accepted
when it is well formed (R112, R120; which operand combinations each mnemonic allows is log entry 26). -/
def asmInstr (mnemonic : List Char) (operands : List Operand) : Option Instr :=
  (mnemonicTable.lookup mnemonic).bind (fun mk =>
    match operands with
    | [] => if (mk .no .no).wellFormed then some (mk .no .no) else none
    | [a] => if (mk a .no).wellFormed then some (mk a .no) else none
    | [a, b] => if (mk a b).wellFormed then some (mk a b) else none
    | _ => none)

/-- The operands of a line; `none` if one of them is none. -/
def parseOperands (labels : List (List Char × Word)) : List (List Char) → Option (List Operand)
  | [] => some []
  | t :: rest =>
    (parseOperand labels t).bind (fun o => (parseOperands labels rest).map (fun os => o :: os))

/-- Pass 1: each label bound to the address of the next instruction, `count * 12` (R120, R122). -/
def collectLabels : Nat → List AsmLine → List (List Char × Word)
  | _, [] => []
  | count, .blank :: rest => collectLabels count rest
  | count, .label name :: rest => (name, BitVec.ofNat 32 (count * 12)) :: collectLabels count rest
  | count, .instr _ _ :: rest => collectLabels (count + 1) rest

/-- Pass 2: three words per instruction line; the first line that matches nothing is named (R120,
R125, R126). `line` is the number of the line at hand in the source file (log entry 30). -/
def assembleLines (labels : List (List Char × Word)) : Nat → List AsmLine → Except AsmError (List Word)
  | _, [] => .ok []
  | line, .blank :: rest => assembleLines labels (line + 1) rest
  | line, .label _ :: rest => assembleLines labels (line + 1) rest
  | line, .instr mnemonic texts :: rest =>
    match (parseOperands labels texts).bind (asmInstr mnemonic) with
    | none => .error (.unrecognizedInstruction line)
    | some i =>
      match assembleLines labels (line + 1) rest with
      | .error e => .error e
      | .ok ws => .ok ((encode i).1 :: (encode i).2.1 :: (encode i).2.2 :: ws)

/-- The assembler: pass 1, then pass 2 (R120); its output is a flat sequence of words (R125). -/
def assemble (source : List AsmLine) : Except AsmError (List Word) :=
  assembleLines (collectLabels 0 source) 1 source

/-- The image of a list of words in memory: big-endian, the first word lowest (R125, 70 R312). -/
def imageBytes (ws : List Word) : List Byte := ws.flatMap wordBytes

end Sys2Proof.Machine
end

