-- ==== Sys2Proof/Machine/HostPort.lean ====
section
/-! DEFINITION. The host port (60 R295 to R304, 70 R310, R311): every operation the host can perform
between cycles, with the state it leaves and what the host gets back. `step` is the operation `cycle`
seen as a machine; the other operations are transitions of their own (R303, log entry 8). -/

namespace Sys2Proof.Machine

/-- What a cycle tells the host (R9, R296). -/
inductive CycleOutcome where
  /-- The instruction completed; `cycle()` returned true. -/
  | next
  /-- The fetched word 0 was all zero; `cycle()` returned false (R132). -/
  | halt
  /-- The first error of the cycle (R270). -/
  | fault (f : Fault)
  /-- The model has no answer. -/
  | refused (r : Refusal)
deriving DecidableEq, Repr

/-- The outcome of running a decoded instruction in the state `s1` that holds its word 0 in EIR; on a
fault every other register, PG and all RAM are as before the cycle (R156, R285). -/
def runDecoded (i : Instr) (s1 : State) : CycleOutcome × State :=
  match exec i s1 with
  | .next t => (if i = .haltWord then .halt else .next, t)
  | .fault f => (.fault f, s1)
  | .refused r => (.refused r, s1)

/-- One cycle with its outcome and the state it leaves, faults included (R130, R131, R156): if the fetch
of word 0 faults EIR keeps its old value, otherwise EIR holds the word even if the rest faults. -/
def cycle (s : State) : CycleOutcome × State :=
  match fetchWord0 s with
  | .error f => (.fault f, s)
  | .ok w0 =>
    match fetchInstr (fetched s w0) w0 with
    | .error f => (.fault f, fetched s w0)
    | .ok i => runDecoded i (fetched s w0)

/-- The operations of the host port (R295). -/
inductive HostOp where
  | cycle
  | enterKernelMode
  | enterUserMode
  | enableMemoryVirtualization
  | disableMemoryVirtualization
  /-- `int(op)`, an operand the host supplies in place of slot 1 (R301). -/
  | int (op : Operand)
  | regGet (r : Reg)
  | regSet (r : Reg) (v : Word)
  | ramRead (pa : Nat)
  | ramWrite (pa : Nat) (b : Byte)
  | reset
deriving DecidableEq, Repr

/-- What the host gets back (R295). -/
inductive HostReply where
  | done
  | cycled (o : CycleOutcome)
  | word (v : Word)
  | byte (b : Byte)
  | fault (f : Fault)
  | refused (r : Refusal)
deriving DecidableEq, Repr

/-- `enableMemoryVirtualization`: PG <- 1; if PG was 0, GPTP appears with content 0 (R299, R41). -/
def State.enablePaging (s : State) : State :=
  if s.pg then s else { s with pg := true, gptp := 0#32 }

/-- `disableMemoryVirtualization`: PG <- 0; if PG was 1, GPTP and its content are gone (R300, R41). -/
def State.disablePaging (s : State) : State :=
  if s.pg then { s with pg := false, gptp := 0#32 } else s

/-- The host's `int(op)`: the INT handler between cycles; on a fault nothing has changed and no
instruction is fetched, so EIR is not written (R301). -/
def hostInt (op : Operand) (s : State) : HostReply × State :=
  match interrupt op s with
  | .ok t => (.done, t)
  | .error f => (.fault f, s)

/-- A reset after the first: every register and PG at its reset value, the RAM as it is (R310, R311). -/
def State.resetAgain (s : State) : State := { State.resetWith s.capacity with ram := s.ram }

/-- One operation of the host port: what the host gets back and the state left. No privilege check is
made on the host (R302). -/
def hostStep (op : HostOp) (s : State) : HostReply × State :=
  match op with
  | .cycle => (.cycled (cycle s).1, (cycle s).2)
  | .enterKernelMode => (.done, s.setPL kernelPL)
  | .enterUserMode => (.done, s.setPL userPL)
  | .enableMemoryVirtualization => (.done, s.enablePaging)
  | .disableMemoryVirtualization => (.done, s.disablePaging)
  | .int o => hostInt o s
  | .regGet r => if s.hasReg r then (.word (s.getReg r), s) else (.refused .hostAccessToAbsentGptp, s)
  | .regSet r v => if s.hasReg r then (.done, s.setReg r v) else (.refused .hostAccessToAbsentGptp, s)
  | .ramRead pa =>
    match physRead8 s pa with
    | .ok b => (.byte b, s)
    | .error f => (.fault f, s)
  | .ramWrite pa b =>
    match physWrite8 s pa b with
    | .ok t => (.done, t)
    | .error f => (.fault f, s)
  | .reset => (.done, s.resetAgain)

end Sys2Proof.Machine
end

