-- ==== Sys2Proof/Safety.lean ====
section
/-! DEFINITION. The terms claims use: the state invariant, what a step leaves unchanged, and which states
the host port can reach. -/

namespace Sys2Proof.Machine

/-- The state invariant: the RAM is in its canonical form (R62), no byte lies above CAPACITY (R65), and
GPTP holds nothing while it is absent (R41). -/
def State.wf (s : State) : Bool :=
  s.ram.wf && s.ram.within s.capacity && (s.pg || decide (s.gptp = 0#32))

/-- Every register but those listed has the same content. EIP, EIR and EFLAGS are registers of the list. -/
def SameRegsBut (regs : List Reg) (s t : State) : Prop := ∀ r, r ∉ regs → t.getReg r = s.getReg r

/-- Every byte of memory reads the same. -/
def SameMemory (s t : State) : Prop := ∀ x, t.ram.read x = s.ram.read x

/-- Every byte of memory outside `pa, ..., pa + n - 1` reads the same. -/
def SameMemoryBut (pa n : Nat) (s t : State) : Prop :=
  ∀ x, (x < pa ∨ pa + n ≤ x) → t.ram.read x = s.ram.read x

/-- PG and CAPACITY are the same. -/
def SameMachine (s t : State) : Prop := t.pg = s.pg ∧ t.capacity = s.capacity

/-- PL and IF of EFLAGS are the same. -/
def SameModeBits (s t : State) : Prop :=
  flagPL t.flagsByte = flagPL s.flagsByte ∧ flagIF t.flagsByte = flagIF s.flagsByte

/-! ## Operands as statements speak of them -/

/-- The register a direct register operand names (R111). -/
def targetReg : Operand → Option Reg
  | .reg c => Reg.ofCode c
  | _ => none

/-- The `n` bytes from virtual address `va` on may be written: the MMU translates it for a write and
every byte is inside the RAM (R86). -/
def MemWritable (s : State) (va : Word) (n : Nat) : Prop :=
  ∃ pa, mmuTranslate s va .write = .ok pa ∧ pa + (n - 1) ≤ s.capacity.toNat

/-- A target operand may be written: a register that exists, is there and may be written at this
privilege level, or four bytes of memory the MMU lets be written (R136, R139). -/
def TargetWritable (s : State) : Operand → Prop
  | .reg c => ∃ r, Reg.ofCode c = some r ∧ s.hasReg r = true ∧ (s.pl = kernelPL ∨ userWritable r = true)
  | .mem a => MemWritable s a 4
  | .regInd c => ∃ a, regRead s c = .ok a ∧ MemWritable s a 4
  | .no => False
  | .imm _ => False

/-- The operand an instruction writes (R108, R113 to R115). -/
def writtenOperand (i : Instr) : Option Operand :=
  match i.shape with
  | .srcTgt => some i.slots.2
  | .tgt => some i.slots.1
  | .srcSrc | .src | .none => none

/-- The frame of an instruction that writes one operand: outside the registers listed, only the register
the operand names can change; the memory that can change is the four bytes at the address it names,
translated for a write before the instruction. -/
def TargetFrame (regs : List Reg) (op : Operand) (s t : State) : Prop :=
  (∀ r, r ∉ regs → targetReg op ≠ some r → t.getReg r = s.getReg r)
    ∧ SameMachine s t
    ∧ ((∃ c, op = .reg c) → SameMemory s t)
    ∧ (∀ a pa, operandAddr s op = .ok a → mmuTranslate s a .write = .ok pa → SameMemoryBut pa 4 s t)

/-! ## Results as statements speak of them -/

/-- How many of the eight low bits are 1 (R144). -/
def lowOnes (r : Word) : Nat := ((List.range 8).map (fun k => (r.getLsbD k).toNat)).sum

/-- The flags of a result, in numbers: zero, the sign bit, even parity of the low byte, and the given
carry and overflow (R143, R144). -/
def flagsOfResult (r : Word) (cf of : Bool) : ArithFlags :=
  { zf := decide (r.toNat = 0), sf := decide (2 ^ 31 ≤ r.toNat), cf := cf, of := of,
    pf := decide (lowOnes r % 2 = 0) }

/-- An integer outside the signed 32-bit range (R142). -/
def outOfSigned (n : Int) : Bool := decide (n < -2 ^ 31 ∨ 2 ^ 31 ≤ n)

/-- The flags of `a - b` as SUB and CMP leave them (R163): CF is no borrow, but 0 for `b = 0`; OF is
signed overflow of the difference, but bit 31 of `a` for `b = 0x80000000`. -/
def flagsOfDifference (a b : Word) : ArithFlags :=
  flagsOfResult (a - b) (decide (b ≠ 0#32 ∧ b.toNat ≤ a.toNat))
    (if b = 0x80000000#32 then decide (2 ^ 31 ≤ a.toNat) else outOfSigned (a.toInt - b.toInt))

/-! ## Reachability -/

/-- The states the host port can bring a machine of some CAPACITY to, from the reset that creates it. -/
inductive Reachable (capacity : Word) : State → Prop where
  | reset : Reachable capacity (State.resetWith capacity)
  | host (op : HostOp) (s : State) : Reachable capacity s → Reachable capacity (hostStep op s).2

/-- A run is safe at a state when the cycle there ends in no fault. -/
def SafeAt (s : State) : Prop := ∃ t, step s = .next t

end Sys2Proof.Machine
end

