-- ==== Sys2Proof/Certificates/Slice0/Obligations.lean ====
section
/-! DEFINITION. The statements for the provers. Each is about every state and operand it names; a
statement that rests on a decision the spec marks as its own says so in its docstring. -/

open Sys2Proof Sys2Proof.Machine

/-! ## Encoding -/

/-- Decoding an encoded instruction gives it back, every operand at every value, for every constructor; JE and
JNE come back as JZ and JNZ, whose words they share (30 R101 to R115, R124; the codes are the spec's decisions
D3 to D7, D37). Rests on the spec's D2, D3, D4, D5, D6, D7, D8, D37; log entries 6, 20, 24. -/
def Obligations.DecodeOfEncodeIsTheInstruction : Prop :=
  (∀ i, decodeWords (encode i).1 (encode i).2.1 (encode i).2.2 = .ok i.canonical)
    ∧ (∀ i rest, i ≠ .haltWord → decode (encodeBytes i ++ rest) = .ok (i.canonical, rest))
    ∧ (∀ rest, decode (wordBytes 0#32 ++ rest) = .ok (.haltWord, rest))
    ∧ (∀ i : Instr, (∀ a b, i ≠ .je a b ∧ i ≠ .jne a b) → i.canonical = i)

/-- Encoding a decoded instruction gives its words back: word 0 with `11` in both delimiters, and the value word
of every slot that is present; an absent slot's is zero (30 R101, R102, R112; D2). Rests on the spec's D2, D3,
D4, D5, D6, D8; log entries 20, 24. -/
def Obligations.EncodeOfDecodeIsTheWords : Prop :=
  ∀ w0 w1 w2 i, decodeWords w0 w1 w2 = .ok i → i ≠ .haltWord →
    (encode i).1 = w0 ||| 0x180C0000#32
      ∧ (encode i).2.1 = (if i.slots.1 = .no then 0#32 else w1)
      ∧ (encode i).2.2 = (if i.slots.2 = .no then 0#32 else w2)

/-- The decoder examines neither delimiter, nor the value word of an absent slot; the halt sentinel is exactly
the all-zero word 0, and no other instruction is encoded with one (30 R102, R112, R116; D2). Rests on the spec's
D2, D3, D4, D5, D6, D33; log entries 20, 24. -/
def Obligations.DecodeIgnoresDelimitersButHaltIsZero : Prop :=
  (∀ w0 w0' w1 w2, w0 ≠ 0#32 → w0' ≠ 0#32 → w0 &&& 0xE7F3FFFF#32 = w0' &&& 0xE7F3FFFF#32 →
      decodeWords w0 w1 w2 = decodeWords w0' w1 w2)
    ∧ (∀ w0 w1 w1' w2, decodeSlot1 w0 = .ok .no → decodeWords w0 w1 w2 = decodeWords w0 w1' w2)
    ∧ (∀ w0 w1 w2 w2', decodeSlot2 w0 = .ok .no → decodeWords w0 w1 w2 = decodeWords w0 w1 w2')
    ∧ (∀ w0 w1 w2, decodeWords w0 w1 w2 = .ok .haltWord ↔ w0 = 0#32)
    ∧ (∀ i, i ≠ .haltWord → (encode i).1 ≠ 0#32)

/-- Which words are rejected, and as what: an unassigned type or opcode, then slot 1, then slot 2; in a slot an
unknown type, then a mode illegal for the type (30 R107, R117; the codes and the order are the spec's decisions
D3 to D8). Rests on the spec's D3, D4, D5, D6, D8; log entry 24. -/
def Obligations.DecoderRejectsExactlyTheIllegalWords : Prop :=
  (∀ w0 w1 w2, decodeWords w0 w1 w2 = .error .unrecognizedInstruction ↔
      w0 ≠ 0#32
        ∧ ¬ ((fieldType w0 = 4#3 ∧ (fieldOpcode w0).toNat < 14)
          ∨ (fieldType w0 = 2#3 ∧ (fieldOpcode w0).toNat < 8)
          ∨ (fieldType w0 = 1#3 ∧ (fieldOpcode w0).toNat < 13)))
    ∧ (∀ m o, decodeSlot m o = .error .unrecognizedOperandType ↔ o ∉ [0x00#7, 0x50#7, 0x60#7, 0x70#7])
    ∧ (∀ m o, decodeSlot m o = .error .unrecognizedAddressingMode ↔
        o ∈ [0x00#7, 0x50#7, 0x60#7, 0x70#7]
          ∧ (m, o) ∉ [(0#2, 0x00#7), (2#2, 0x50#7), (2#2, 0x70#7), (2#2, 0x60#7), (3#2, 0x60#7)])
    ∧ (∀ w0 w1 w2 mk e, w0 ≠ 0#32 → decodeOpcode w0 = .ok mk →
        (decodeWords w0 w1 w2 = .error e ↔
          decodeSlot1 w0 = .error e ∨ ∃ k, decodeSlot1 w0 = .ok k ∧ decodeSlot2 w0 = .error e))

/-- Words the spec prints decode to the instructions it prints them for (30 R127, 95 E1): one or more of each
type. Rests on the spec's D2, D3, D4, D5, D6, D7, D20; log entry 24. -/
def Obligations.PrintedWordsDecode : Prop :=
  decodeWords 0x980EA160#32 1#32 0#32 = .ok (.add (.imm 1#32) (.reg 0#32))
    ∧ decodeWords 0x580EA160#32 0x64#32 0#32 = .ok (.mov (.imm 0x64#32) (.reg 0#32))
    ∧ decodeWords 0x581C0000#32 0#32 0#32 = .ok (.nop .no .no)
    ∧ decodeWords 0x383EE000#32 0xC#32 0#32 = .ok (.jg (.mem 0xC#32) .no)
    ∧ decodeWords 0x583FC000#32 1#32 0#32 = .ok (.pop (.regInd 1#32) .no)
    ∧ decodeWords 0x580EE1E0#32 0x100#32 2#32 = .ok (.mov (.mem 0x100#32) (.regInd 2#32))
    ∧ decodeWords 0x389EA000#32 0x30#32 0#32 = .ok (.int (.imm 0x30#32) .no)
    ∧ decodeWords 0x38AC0000#32 0#32 0#32 = .ok (.iret .no .no)

/-! ## The cycle -/

/-- A step runs the decoded instruction: if word 0 at EIP and, for the slots that are present, the value words
at EIP + 4 and EIP + 8 are fetched and decode to `i`, then the step is `exec i` in the same state with word 0 in
EIR (40 R130 to R134). Rests on the spec's D8, D28, D30, D38; log entries 7, 20, 24. -/
def Obligations.StepRunsTheDecodedInstruction : Prop :=
  ∀ s w0 w1 w2 i, memFetch s s.eip = .ok w0 → decodeWords w0 w1 w2 = .ok i →
    (i.slots.1 ≠ .no → memFetch s (s.eip + 4#32) = .ok w1) →
    (i.slots.2 ≠ .no → memFetch s (s.eip + 8#32) = .ok w2) →
    step s = exec i (s.setEir w0)

/-- The faults of fetch and decode, each by name, in the order a cycle reports them: word 0, then type and
opcode, then slot 1 and its value word, then slot 2 and its (60 R273 to R275, R284 points 1 to 5; the order is
the spec's D24, which slot error is which D8). Rests on the spec's D8, D24, D28, D30, D38; log entries 20, 28.
-/
def Obligations.StepReportsTheFirstFetchOrDecodeFault : Prop :=
  (∀ s f, memFetch s s.eip = .error f → step s = .fault f)
    ∧ (∀ s w0, memFetch s s.eip = .ok w0 → w0 ≠ 0#32 → decodeOpcode w0 = .error .unrecognizedInstruction →
        step s = .fault .unrecognizedInstruction)
    ∧ (∀ s w0 mk e, memFetch s s.eip = .ok w0 → w0 ≠ 0#32 → decodeOpcode w0 = .ok mk →
        decodeSlot1 w0 = .error e →
        (e = .unrecognizedOperandType ∧ step s = .fault .unrecognizedOperandType)
          ∨ (e = .unrecognizedAddressingMode ∧ step s = .fault .unrecognizedAddressingMode))
    ∧ (∀ s w0 mk k f, memFetch s s.eip = .ok w0 → w0 ≠ 0#32 → decodeOpcode w0 = .ok mk →
        decodeSlot1 w0 = .ok k → k ≠ .no → memFetch s (s.eip + 4#32) = .error f → step s = .fault f)
    ∧ (∀ s w0 mk k1 e, memFetch s s.eip = .ok w0 → w0 ≠ 0#32 → decodeOpcode w0 = .ok mk →
        decodeSlot1 w0 = .ok k1 → (k1 ≠ .no → ∃ w1, memFetch s (s.eip + 4#32) = .ok w1) →
        decodeSlot2 w0 = .error e →
        (e = .unrecognizedOperandType ∧ step s = .fault .unrecognizedOperandType)
          ∨ (e = .unrecognizedAddressingMode ∧ step s = .fault .unrecognizedAddressingMode))
    ∧ (∀ s w0 mk k1 k2 f, memFetch s s.eip = .ok w0 → w0 ≠ 0#32 → decodeOpcode w0 = .ok mk →
        decodeSlot1 w0 = .ok k1 → (k1 ≠ .no → ∃ w1, memFetch s (s.eip + 4#32) = .ok w1) →
        decodeSlot2 w0 = .ok k2 → k2 ≠ .no → memFetch s (s.eip + 8#32) = .error f → step s = .fault f)

/-- Fetch (40 R131): the word at EIP, read with access kind execute; a fault of that read, one of three kinds,
ends the cycle and leaves EIR, and with it the whole state; otherwise EIR has the word, also when the rest
of the cycle faults. -/
def Obligations.FetchWritesEirUnlessItFaults : Prop :=
  (∀ s, fetchWord0 s = memFetch s s.eip)
    ∧ (∀ s f, fetchWord0 s = .error f → cycle s = (.fault f, s)
      ∧ (f = .privilegeViolation ∨ (∃ a, f = .addressOutOfRange a) ∨ ∃ flags a, f = .pageFault flags a))
    ∧ (∀ s w0 i, fetchWord0 s = .ok w0 → fetchInstr (fetched s w0) w0 = .ok i →
        (fetched s w0).eir = w0 ∧ cycle s = runDecoded i (fetched s w0))
    ∧ (∀ s w0 f t, fetchWord0 s = .ok w0 → cycle s = (.fault f, t) → t.eir = w0)

/-- A halting cycle: EIR takes the zero word, nothing else changes, EIP included, and the host's `cycle` answers
`halt` (40 R132, 00 R9; that the core keeps no memory of it is the spec's D33). That `exec` and `step` answer
`next` there is the model's choice, made because the step has no halt outcome (log entry 7). Rests on the spec's
D28, D33; log entry 7. -/
def Obligations.HaltWordChangesOnlyEir : Prop :=
  (∀ s, exec .haltWord s = .next s)
    ∧ (∀ s, memFetch s s.eip = .ok 0#32 →
        step s = .next (s.setEir 0#32) ∧ cycle s = (.halt, s.setEir 0#32))

/-- Faults are precise (40 R156, 60 R285; the spec's decision D22, log entry 11): a faulting cycle leaves the
state as it was, but for EIR when word 0 was fetched. The cycle the host sees and the step agree: a cycle halts
exactly on a fetched zero word, leaving EIR zero and the rest as it was (40 R132, the spec's D33), and that the
step answers next there too is the model's choice, made because it has no halt outcome (log entry 7). Rests on
the spec's D22, D28, D33; log entries 7, 11. -/
def Obligations.FaultingCycleChangesOnlyEir : Prop :=
  ∀ s,
    (∀ f t, cycle s = (.fault f, t) →
        step s = .fault f ∧ (t = s ∨ ∃ w0, fetchWord0 s = .ok w0 ∧ t = s.setEir w0))
      ∧ (∀ f, step s = .fault f → ∃ t, cycle s = (.fault f, t))
      ∧ (∀ t, step s = .next t ↔ cycle s = (.next, t) ∨ cycle s = (.halt, t))
      ∧ (∀ t, cycle s = (.halt, t) ↔ memFetch s s.eip = .ok 0#32 ∧ t = s.setEir 0#32)
      ∧ (∀ r, step s ≠ .refused r)

/-! ## The RAM -/

/-- `readByte` returns the byte last written there, or 0x00 if none was since reset; `writeByte` makes its
byte the one read there and has no other effect (20 R61, R62). -/
def Obligations.RamByteReadsWhatWasLastWritten : Prop :=
  (∀ x, State.reset.ram.read x = 0x00#8)
    ∧ (∀ (m : Memory) x b, (m.write x b).read x = b)
    ∧ (∀ (m : Memory) x y b, y ≠ x → (m.write x b).read y = m.read y)
    ∧ (∀ (m : Memory) x, ∀ c ∈ m.write x 0x00#8, c.1 ≠ x)

/-- A word lies big-endian at its address: written, its four bytes read most significant first, it reads back
whole, and no other byte changes (20 R63, R64, R67). Rests on the spec's D30; log entry 24. -/
def Obligations.RamWordIsBigEndian : Prop :=
  ∀ s pa v t, physWrite32 s pa v = .ok t →
    physRead8 t pa = .ok (v.extractLsb' 24 8)
      ∧ physRead8 t (pa + 1) = .ok (v.extractLsb' 16 8)
      ∧ physRead8 t (pa + 2) = .ok (v.extractLsb' 8 8)
      ∧ physRead8 t (pa + 3) = .ok (v.extractLsb' 0 8)
      ∧ physRead32 t pa = .ok v
      ∧ SameMemoryBut pa 4 s t ∧ SameMachine s t ∧ (∀ r, t.getReg r = s.getReg r)

/-- Bounds of the RAM port: an access is legal exactly when its last byte is at most CAPACITY, and an illegal
one raises AddressOutOfRange; that the byte named is the lowest one out of range is the model's reading (20 R65;
decisions D30, D31 of the spec; log entry 5). Rests on the spec's D22, D30, D31; log entries 5, 24. -/
def Obligations.RamPortBoundsAreInclusive : Prop :=
  ∀ (s : State) (pa : Nat),
    (pa ≤ s.capacity.toNat → physRead8 s pa = .ok (s.ram.read pa)
        ∧ ∀ b, physWrite8 s pa b = .ok (s.setRam (s.ram.write pa b)))
      ∧ (s.capacity.toNat < pa → physRead8 s pa = .error (.addressOutOfRange pa)
        ∧ ∀ b, physWrite8 s pa b = .error (.addressOutOfRange pa))
      ∧ (pa + 3 ≤ s.capacity.toNat → physRead32 s pa = .ok (s.ram.readWord pa)
        ∧ ∀ v, physWrite32 s pa v = .ok (s.setRam (s.ram.writeWord pa v)))
      ∧ (s.capacity.toNat < pa + 3 →
        let bad := max pa (s.capacity.toNat + 1)
        physRead32 s pa = .error (.addressOutOfRange bad)
          ∧ ∀ v, physWrite32 s pa v = .error (.addressOutOfRange bad))

/-! ## The MMU -/

/-- Real mode passes the address through; in paged mode the walk reads the entry at PTP + page number * 4,
faults when it is out of range, not present or not permitted, in that order, and else answers frame number *
4096 + offset (20 R75 to R82; the predicate and the entry's layout are the spec's D25, D26). That the fault of
an entry out of range reports the entry's lowest byte out of range is the model's reading (log entry 5). Rests
on the spec's D25, D26, D27, D30, D31, D43; log entries 5, 18, 24. -/
def Obligations.TranslationWalksOneLinearTable : Prop :=
  ∀ s va k,
    let e := s.ptp.toNat + va.toNat / 4096 * 4
    let pte := s.ram.readWord e
    (s.pg = false → mmuTranslate s va k = .ok va.toNat)
      ∧ (s.pg = true → s.capacity.toNat < e + 3 →
        mmuTranslate s va k = .error (.addressOutOfRange (max e (s.capacity.toNat + 1))))
      ∧ (s.pg = true → e + 3 ≤ s.capacity.toNat → pte.toNat < 2 ^ 31 →
        mmuTranslate s va k = .error (.pageFault (BitVec.ofNat 12 (pte.toNat / 2 ^ 20)) (BitVec.ofNat 32 e)))
      ∧ (s.pg = true → e + 3 ≤ s.capacity.toNat → 2 ^ 31 ≤ pte.toNat →
        mmuTranslate s va k =
          if (pte.getLsbD 28 = true ∧ s.pl ≠ kernelPL)
              ∨ (k = .write ∧ pte.getLsbD 30 = false) ∨ (k = .execute ∧ pte.getLsbD 29 = false) then
            .error .privilegeViolation
          else .ok (pte.toNat % 2 ^ 20 * 4096 + va.toNat % 4096))

/-- Reads and writes through the MMU (20 R85, R86), and the fetch of a word: translated for their kind, then the
RAM port, raising what the two raise; that a fetched word is translated for execute is the spec's D28 (20 R87).
And the page-fault round trip: a write to a page that is not present raises PageFault with the physical address
of that very entry; after the host writes there an entry that is present, writable and open to the privilege
level, whose frame lies in the RAM away from the entry, the same write succeeds and a read returns the value
(the predicate and the entry's layout are the spec's D25, D26). Rests on the spec's D25, D26, D27, D28, D30,
D31, D42; log entries 18, 24. -/
def Obligations.MemoryAccessAndPageFaultRetry : Prop :=
  (∀ s va pa, mmuTranslate s va .read = .ok pa →
      memRead32 s va = physRead32 s pa ∧ memRead8 s va = physRead8 s pa)
    ∧ (∀ s va f, mmuTranslate s va .read = .error f → memRead32 s va = .error f ∧ memRead8 s va = .error f)
    ∧ (∀ s va pa, mmuTranslate s va .write = .ok pa →
      (∀ v, memWrite32 s va v = physWrite32 s pa v) ∧ ∀ b, memWrite8 s va b = physWrite8 s pa b)
    ∧ (∀ s va f, mmuTranslate s va .write = .error f →
      (∀ v, memWrite32 s va v = .error f) ∧ ∀ b, memWrite8 s va b = .error f)
    ∧ (∀ s va pa, mmuTranslate s va .execute = .ok pa → memFetch s va = physRead32 s pa)
    ∧ (∀ s va f, mmuTranslate s va .execute = .error f → memFetch s va = .error f)
    ∧ (∀ s va v f, memRead32 s va = .error f ∨ memWrite32 s va v = .error f →
      f = .privilegeViolation ∨ (∃ a, f = .addressOutOfRange a) ∨ ∃ flags a, f = .pageFault flags a)
    ∧ (∀ s va b f, memRead8 s va = .error f ∨ memWrite8 s va b = .error f →
      f = .privilegeViolation ∨ (∃ a, f = .addressOutOfRange a) ∨ ∃ flags a, f = .pageFault flags a)
    ∧ (∀ s va v pte, s.pg = true → pteAddr s va + 3 ≤ s.capacity.toNat →
      ptePresent (s.ram.readWord (pteAddr s va)) = false →
      ptePresent pte = true → permitted pte .write s.pl = true →
      (ptePfn pte ++ pageOffset va).toNat + 3 ≤ s.capacity.toNat →
      ((ptePfn pte ++ pageOffset va).toNat + 4 ≤ pteAddr s va
        ∨ pteAddr s va + 4 ≤ (ptePfn pte ++ pageOffset va).toNat) →
      memWrite32 s va v = .error (.pageFault (pteFlags (s.ram.readWord (pteAddr s va)))
          (BitVec.ofNat 32 (pteAddr s va)))
        ∧ (BitVec.ofNat 32 (pteAddr s va)).toNat = pteAddr s va
        ∧ ∃ t, memWrite32 (s.setRam (s.ram.writeWord (pteAddr s va) pte)) va v = .ok t
          ∧ memRead32 t va = .ok v)

/-- A store is seen by the very next fetch of its address: no cache, no fence (20 R93, 70 R313). Rests on the
spec's D27, D28; log entry 18. -/
def Obligations.StoreIsSeenByTheNextFetch : Prop :=
  ∀ s t va v, memWrite32 s va v = .ok t → mmuTranslate t va .execute = mmuTranslate s va .write →
    memFetch t va = .ok v

/-! ## Registers and operands -/

/-- A register operand read: the twelve codes, at every privilege level; a code above 11 and GPTP while PG = 0
fault (40 R135; codes D7, GPTP D12 of the spec). EFLAGS, read whole, has PL in bits 31:30, ZF, SF, CF, OF, PF,
IF in bits 29 to 24 and zeros below, and an ALU result writes ZF, SF, CF, OF, PF there and no other bit (10 R30,
positions D9). Rests on the spec's D7, D9, D12; log entries 3, 4, 24. -/
def Obligations.RegisterReadByCode : Prop :=
  ∀ s : State,
    regRead s 0#32 = .ok s.eax ∧ regRead s 1#32 = .ok s.ebx ∧ regRead s 2#32 = .ok s.ecx
      ∧ regRead s 3#32 = .ok s.eip ∧ regRead s 4#32 = .ok s.esp ∧ regRead s 5#32 = .ok s.eir
      ∧ regRead s 6#32 = .ok (s.flagsByte ++ 0#24) ∧ regRead s 7#32 = .ok s.itp
      ∧ regRead s 8#32 = .ok s.ptp ∧ regRead s 9#32 = .ok s.nptp
      ∧ (s.pg = true → regRead s 10#32 = .ok s.gptp)
      ∧ (s.pg = false → regRead s 10#32 = .error .unsupportedOperandType)
      ∧ regRead s 11#32 = .ok s.vmptr
      ∧ (∀ c : Word, 11 < c.toNat → regRead s c = .error .unrecognizedOperandType)
      ∧ (∀ v, regRead s 6#32 = .ok v →
        v.extractLsb' 30 2 = s.pl ∧ v.getLsbD 29 = flagZF s.flagsByte ∧ v.getLsbD 28 = flagSF s.flagsByte
          ∧ v.getLsbD 27 = flagCF s.flagsByte ∧ v.getLsbD 26 = flagOF s.flagsByte
          ∧ v.getLsbD 25 = flagPF s.flagsByte ∧ v.getLsbD 24 = flagIF s.flagsByte
          ∧ ∀ k, k < 24 → v.getLsbD k = false)
      ∧ (∀ f v, regRead (s.setArith f) 6#32 = .ok v →
        v.getLsbD 29 = f.zf ∧ v.getLsbD 28 = f.sf ∧ v.getLsbD 27 = f.cf ∧ v.getLsbD 26 = f.of
          ∧ v.getLsbD 25 = f.pf ∧ ∀ k, (k < 25 ∨ 29 < k) → v.getLsbD k = s.eflags.getLsbD k)

/-- A register operand write (40 R136): in kernel mode every register that is there takes the value, EFLAGS its
bits 31:24 only; out of kernel mode EAX, EBX, ECX and ESP do and the others fault; nothing but the register
changes. The codes, the extended list and GPTP's absence are the spec's D7, D11, D12. Rests on the spec's D7,
D9, D10, D11, D12; log entries 3, 4, 15, 19, 24. -/
def Obligations.RegisterWriteByCode : Prop :=
  ∀ s (r : Reg) (v : Word),
    (s.hasReg r = true → (s.pl = kernelPL ∨ r ∈ [.eax, .ebx, .ecx, .esp]) →
      ∃ t, regWrite s r.code v = .ok t
        ∧ t.getReg r = (if r = .eflags then v.extractLsb' 24 8 ++ 0#24 else v)
        ∧ SameRegsBut [r] s t ∧ SameMemory s t ∧ SameMachine s t)
      ∧ (s.hasReg r = true → s.pl ≠ kernelPL → r ∉ [.eax, .ebx, .ecx, .esp] →
        regWrite s r.code v = .error .registerNotWritableInUserMode)
      ∧ (s.hasReg r = false ↔ r = .gptp ∧ s.pg = false)
      ∧ (s.hasReg r = false → regWrite s r.code v = .error .unsupportedOperandType)
      ∧ (∀ c : Word, 11 < c.toNat → regWrite s c v = .error .unrecognizedOperandType)

/-- The data value and the transfer target of every operand form (40 R137, R138; the forms are the spec's D20):
a MEM operand's value is the DoubleWord there, its target the address itself. Rests on the spec's D20; log entry
28. -/
def Obligations.OperandValueOfEveryForm : Prop :=
  ∀ s : State,
    (srcVal s .no = .error .missingOperand ∧ addrVal s .no = .error .missingOperand)
      ∧ (∀ v, srcVal s (.imm v) = .ok v ∧ addrVal s (.imm v) = .ok v)
      ∧ (∀ a, srcVal s (.mem a) = memRead32 s a ∧ addrVal s (.mem a) = .ok a)
      ∧ (∀ c, srcVal s (.reg c) = regRead s c ∧ addrVal s (.reg c) = regRead s c)
      ∧ (∀ c a, regRead s c = .ok a →
        srcVal s (.regInd c) = memRead32 s a ∧ addrVal s (.regInd c) = memRead32 s a)
      ∧ (∀ c f, regRead s c = .error f →
        srcVal s (.regInd c) = .error f ∧ addrVal s (.regInd c) = .error f)

/-- A write to an operand answers exactly when the operand may be written, and then only the register it names,
or the four bytes at the address it names, have changed (40 R136, R139). That user mode may write EAX, EBX, ECX
and ESP only is the spec's D11 (log entry 15), that a GPTP absent while PG = 0 may not be written its D12 (log
entry 4). Rests on the spec's D7, D9, D10, D11, D12, D20, D27; log entries 3, 4, 15, 18, 19, 24. -/
def Obligations.OperandWriteOfEveryForm : Prop :=
  (∀ s op v, (∃ t, writeOp s op v = .ok t) ↔ TargetWritable s op)
    ∧ (∀ s op v t, writeOp s op v = .ok t →
      TargetFrame [] op s t
        ∧ (∀ r, targetReg op = some r → r ≠ .eflags → t.getReg r = v)
        ∧ (targetReg op = some .eflags → t.flagsByte = v.extractLsb' 24 8)
        ∧ (∀ a pa, operandAddr s op = .ok a → mmuTranslate s a .write = .ok pa → t.ram.readWord pa = v))
    ∧ (∀ s v, writeOp s .no v = .error .missingOperand)
    ∧ (∀ s u v, writeOp s (.imm u) v = .error .unsupportedOperandType)

/-! ## The ALU -/

/-- The ripple-carry adder (40 R141): its chain, its result bits and its five flags; the result is the sum
modulo 2^32, and the model's adder, which reads the flags off the sum, is the same function. -/
def Obligations.RippleCarryAdderIsAddition : Prop :=
  ∀ a b cin,
    rippleCarry a b cin 0 = cin
      ∧ (∀ i, i < 32 → rippleCarry a b cin (i + 1) =
          ((a.getLsbD i && b.getLsbD i) || (a.getLsbD i && rippleCarry a b cin i)
            || (b.getLsbD i && rippleCarry a b cin i)))
      ∧ (∀ i, i < 32 →
        (rippleAdd32 a b cin).value.getLsbD i = (a.getLsbD i ^^ b.getLsbD i ^^ rippleCarry a b cin i))
      ∧ (rippleAdd32 a b cin).value.toNat = (a.toNat + b.toNat + cin.toNat) % 2 ^ 32
      ∧ (rippleAdd32 a b cin).flags = flagsOfResult (rippleAdd32 a b cin).value (rippleCarry a b cin 32)
          (rippleCarry a b cin 32 ^^ rippleCarry a b cin 31)
      ∧ rippleAdd32 a b cin = add32 a b cin

/-- Carry and overflow (40 R142): CF is the carry out of bit 31, OF is 1 exactly when the carries into and
out of it differ, which is exactly when the signed sum is outside its range; two max-positive operands
set OF and not CF. -/
def Obligations.CarryAndOverflowOfAddition : Prop :=
  (∀ a b cin, (add32 a b cin).flags.cf = rippleCarry a b cin 32)
    ∧ (∀ a b cin, (add32 a b cin).flags.of = true ↔ rippleCarry a b cin 31 ≠ rippleCarry a b cin 32)
    ∧ (∀ a b cin, (add32 a b cin).flags.of = true ↔
        ¬ (-2 ^ 31 ≤ a.toInt + b.toInt + (cin.toNat : Int) ∧ a.toInt + b.toInt + (cin.toNat : Int) ≤ 2 ^ 31 - 1))
    ∧ (add32 0x7FFFFFFF#32 0x7FFFFFFF#32 false).value = 0xFFFFFFFE#32
    ∧ (add32 0x7FFFFFFF#32 0x7FFFFFFF#32 false).flags.of = true
    ∧ (add32 0x7FFFFFFF#32 0x7FFFFFFF#32 false).flags.cf = false

/-- The laws required of the adder and of the number readings (41 R169): adding 0, commutativity with flags,
a - a = 0 with ZF, subtraction is addition of the negation with flags, and the signed and the unsigned
reading go round. -/
def Obligations.AdderLawsAndNumberReadings : Prop :=
  (∀ a, (add32 a 0#32 false).value = a)
    ∧ (∀ a b, add32 a b false = add32 b a false)
    ∧ (∀ a, (aluSub a a).value = 0#32 ∧ (aluSub a a).flags.zf = true)
    ∧ (∀ a b, aluSub a b = add32 a (aluNeg b).value false)
    ∧ (∀ n : Int, -2 ^ 31 ≤ n → n < 2 ^ 31 → (BitVec.ofInt 32 n).toInt = n)
    ∧ (∀ n : Nat, n < 2 ^ 32 → (BitVec.ofNat 32 n).toNat = n)
    ∧ (∀ x : Word, x.toInt = (x.toNat : Int) - (if x.getLsbD 31 then 2 ^ 32 else 0)
      ∧ BitVec.ofInt 32 x.toInt = x ∧ BitVec.ofNat 32 x.toNat = x)

/-- The Booth multiplier's 32 rounds deliver the low half of the signed product, which is that of the unsigned
one, for every pair of operands (40 R149; the rounds are the spec's, from general knowledge). Rests on log entry
24. -/
def Obligations.BoothMultiplierGivesTheLowProduct : Prop :=
  ∀ a b, boothMul a b = BitVec.ofInt 32 (a.toInt * b.toInt)
    ∧ boothMul a b = BitVec.ofNat 32 (a.toNat * b.toNat)
    ∧ boothMul a b = (aluMul a b).value

/-- The restoring divider's 32 rounds deliver the quotient of two magnitudes, its remainder below the divisor;
with the sign applied after, the quotient is the signed one rounded toward zero (40 R150; the rounds are from
general knowledge and the cases with 0x80000000 are the spec's D17, log entry 13). Rests on the spec's D17; log
entries 13, 24. -/
def Obligations.RestoringDividerGivesTheQuotient : Prop :=
  (∀ ma mb, ma < 2 ^ 32 → 0 < mb →
      restoringDiv ma mb = ma / mb ∧ (restoringRounds ma mb 32).1 = ma % mb)
    ∧ (∀ a b, b ≠ 0#32 →
      quotient a b = (if a.getLsbD 31 = b.getLsbD 31 then
          BitVec.ofNat 32 (restoringDiv (magnitude a) (magnitude b))
        else twosComp (BitVec.ofNat 32 (restoringDiv (magnitude a) (magnitude b)))))
    ∧ (∀ a b, b ≠ 0#32 → quotient a b = BitVec.ofInt 32 (a.toInt.tdiv b.toInt))

/-- The flag rule of the bitwise operations (40 R148): carry and overflow cleared, zero, sign and parity
from the result; the operations bit by bit, the boolean-algebra laws, and not(not(a)) = a. -/
def Obligations.BitwiseOperationsAndTheirFlags : Prop :=
  (∀ a b k, k < 32 →
      (aluAnd a b).value.getLsbD k = (a.getLsbD k && b.getLsbD k)
        ∧ (aluOr a b).value.getLsbD k = (a.getLsbD k || b.getLsbD k)
        ∧ (aluXor a b).value.getLsbD k = (a.getLsbD k ^^ b.getLsbD k)
        ∧ (aluNot a).value.getLsbD k = !a.getLsbD k)
    ∧ (∀ a b, ∀ x ∈ [aluAnd a b, aluOr a b, aluXor a b, aluNot a],
      x.flags = flagsOfResult x.value false false)
    ∧ (∀ a, (aluNot (aluNot a).value).value = a)
    ∧ (∀ a b c, (aluAnd a b).value = (aluAnd b a).value ∧ (aluOr a b).value = (aluOr b a).value
      ∧ (aluXor a b).value = (aluXor b a).value
      ∧ (aluAnd (aluAnd a b).value c).value = (aluAnd a (aluAnd b c).value).value
      ∧ (aluOr (aluOr a b).value c).value = (aluOr a (aluOr b c).value).value
      ∧ (aluXor (aluXor a b).value c).value = (aluXor a (aluXor b c).value).value
      ∧ (aluAnd a (aluOr b c).value).value = (aluOr (aluAnd a b).value (aluAnd a c).value).value
      ∧ (aluOr a (aluAnd b c).value).value = (aluAnd (aluOr a b).value (aluOr a c).value).value
      ∧ (aluNot (aluAnd a b).value).value = (aluOr (aluNot a).value (aluNot b).value).value
      ∧ (aluNot (aluOr a b).value).value = (aluAnd (aluNot a).value (aluNot b).value).value
      ∧ (aluAnd a (aluNot a).value).value = 0#32 ∧ (aluOr a (aluNot a).value).value = 0xFFFFFFFF#32)

/-! ## Arithmetic and logic instructions -/

/-- ADD and ADC complete on every readable source and writable target: the target takes the sum modulo 2^32 (for
ADC with the carry flag before the instruction), CF says the sum reached 2^32, OF that the signed sum left its
range, and EIP advances (41 R160 to R162; step order D21, ADC's opcode D4). Rests on the spec's D4, D8, D9, D10,
D11, D12, D18, D21; log entries 4, 15, 19, 28. -/
def Obligations.AddAndAdcResult : Prop :=
  ∀ op1 op2 s a b, srcVal s op1 = .ok b → srcVal s op2 = .ok a → TargetWritable s op2 →
    (∃ u, writeOp s op2 (a + b) = .ok u ∧ exec (.add op1 op2) s =
        .next (u.setArith (flagsOfResult (a + b) (decide (2 ^ 32 ≤ a.toNat + b.toNat))
          (outOfSigned (a.toInt + b.toInt)))).advance)
      ∧ (∃ u, writeOp s op2 (a + b + BitVec.ofNat 32 s.cf.toNat) = .ok u ∧ exec (.adc op1 op2) s =
        .next (u.setArith (flagsOfResult (a + b + BitVec.ofNat 32 s.cf.toNat)
          (decide (2 ^ 32 ≤ a.toNat + b.toNat + s.cf.toNat))
          (outOfSigned (a.toInt + b.toInt + (s.cf.toNat : Int))))).advance)

/-- SUB and SBB complete on every readable source and writable target: the target takes target minus source, for
SBB plus the carry flag before the instruction, and the flags are those of target plus the two's complement of
the source (41 R163, R164; opcodes D4). Rests on the spec's D4, D8, D9, D10, D11, D12, D18, D21; log entries 4,
15, 19, 28. -/
def Obligations.SubAndSbbResult : Prop :=
  ∀ op1 op2 s a b, srcVal s op1 = .ok b → srcVal s op2 = .ok a → TargetWritable s op2 →
    (∃ u, writeOp s op2 (a - b) = .ok u ∧ exec (.sub op1 op2) s =
        .next (u.setArith (flagsOfDifference a b)).advance)
      ∧ (∃ u, writeOp s op2 (a - b + BitVec.ofNat 32 s.cf.toNat) = .ok u ∧ exec (.sbb op1 op2) s =
        .next (u.setArith (flagsOfResult (a - b + BitVec.ofNat 32 s.cf.toNat)
          (decide (2 ^ 32 ≤ a.toNat + (-b).toNat + s.cf.toNat))
          (outOfSigned (a.toInt + (-b).toInt + (s.cf.toNat : Int))))).advance)

/-- NEG completes on every writable target it can read: zero minus the target, CF only for 0, OF only for
0x80000000. CMP completes on every pair of readable operands, immediates included: the flags of second minus
first, nothing written (41 R165, R166; opcodes D4, CMP's immediate D41). Rests on the spec's D4, D8, D9, D10,
D11, D12, D18, D21, D38, D41; log entries 4, 15, 19, 20, 28. -/
def Obligations.NegAndCmpResult : Prop :=
  (∀ op1 op2 s x, srcVal s op1 = .ok x → TargetWritable s op1 →
      ∃ u, writeOp s op1 (0#32 - x) = .ok u ∧ exec (.neg op1 op2) s =
        .next (u.setArith (flagsOfResult (0#32 - x) (decide (x = 0#32)) (decide (x = 0x80000000#32)))).advance)
    ∧ (∀ op1 op2 s a b, srcVal s op1 = .ok b → srcVal s op2 = .ok a →
      exec (.cmp op1 op2) s = .next (s.setArith (flagsOfDifference a b)).advance)

/-- MUL completes on every readable source and writable target with the low 32 bits of the signed product; CF
and OF are 0 (41 R167; CF and OF are the spec's D16, log entry 17). Rests on the spec's D4, D8, D9, D10, D11,
D12, D16, D21; log entries 4, 15, 17, 19, 28. -/
def Obligations.MulResult : Prop :=
  ∀ op1 op2 s a b, srcVal s op1 = .ok b → srcVal s op2 = .ok a → TargetWritable s op2 →
    ∃ u, writeOp s op2 (BitVec.ofInt 32 (a.toInt * b.toInt)) = .ok u ∧ exec (.mul op1 op2) s =
      .next (u.setArith (flagsOfResult (BitVec.ofInt 32 (a.toInt * b.toInt)) false false)).advance

/-- DIV completes on every readable nonzero source and writable target with the signed quotient rounded toward
zero, CF and OF 0; a zero source raises DivisionByZero after both reads (41 R168; operand roles, 0x80000000 and
CF, OF are the spec's D16, D17, log entries 13 and 17). Rests on the spec's D4, D8, D9, D10, D11, D12, D16, D17,
D21, D24; log entries 4, 13, 15, 17, 19, 28. -/
def Obligations.DivResult : Prop :=
  ∀ op1 op2 s a b, srcVal s op1 = .ok b → srcVal s op2 = .ok a →
    (b ≠ 0#32 → TargetWritable s op2 →
        ∃ u, writeOp s op2 (BitVec.ofInt 32 (a.toInt.tdiv b.toInt)) = .ok u ∧ exec (.div op1 op2) s =
          .next (u.setArith (flagsOfResult (BitVec.ofInt 32 (a.toInt.tdiv b.toInt)) false false)).advance)
      ∧ (b = 0#32 → op2.isImm = false → exec (.div op1 op2) s = .fault .divisionByZero)

/-- AND, OR, XOR and NOT complete on every readable source and writable target with the bitwise result, CF and
OF 0, ZF, SF, PF from the result (42 R190 to R194; opcodes D4). Rests on the spec's D4, D8, D9, D10, D11, D12,
D21, D38; log entries 4, 15, 19, 20, 28. -/
def Obligations.LogicResult : Prop :=
  (∀ op1 op2 s a b, srcVal s op1 = .ok b → srcVal s op2 = .ok a → TargetWritable s op2 →
      (∃ u, writeOp s op2 (a &&& b) = .ok u ∧ exec (.and op1 op2) s =
          .next (u.setArith (flagsOfResult (a &&& b) false false)).advance)
        ∧ (∃ u, writeOp s op2 (a ||| b) = .ok u ∧ exec (.or op1 op2) s =
          .next (u.setArith (flagsOfResult (a ||| b) false false)).advance)
        ∧ (∃ u, writeOp s op2 (a ^^^ b) = .ok u ∧ exec (.xor op1 op2) s =
          .next (u.setArith (flagsOfResult (a ^^^ b) false false)).advance))
    ∧ (∀ op1 op2 s x, srcVal s op1 = .ok x → TargetWritable s op1 →
      ∃ u, writeOp s op1 (~~~x) = .ok u ∧ exec (.not op1 op2) s =
        .next (u.setArith (flagsOfResult (~~~x) false false)).advance)

/-- SHL and SHR complete on every readable count and writable target: multiplied or divided by 2^n below a count
of 32, zero from 32 on, CF and OF 0 (42 R195, R196; both instructions are the spec's D15, D16, log entry 12).
Rests on the spec's D4, D8, D9, D10, D11, D12, D15, D16, D21; log entries 4, 12, 15, 17, 19, 28. -/
def Obligations.ShiftResult : Prop :=
  ∀ op1 op2 s a n, srcVal s op1 = .ok n → srcVal s op2 = .ok a → TargetWritable s op2 →
    ∃ l r : Word,
      (n.toNat < 32 → l.toNat = a.toNat * 2 ^ n.toNat % 2 ^ 32 ∧ r.toNat = a.toNat / 2 ^ n.toNat)
        ∧ (32 ≤ n.toNat → l = 0#32 ∧ r = 0#32)
        ∧ (∃ u, writeOp s op2 l = .ok u ∧ exec (.shl op1 op2) s =
          .next (u.setArith (flagsOfResult l false false)).advance)
        ∧ (∃ u, writeOp s op2 r = .ok u ∧ exec (.shr op1 op2) s =
          .next (u.setArith (flagsOfResult r false false)).advance)

/-- The frame of the two-operand ALU instructions: besides EIP and the arithmetic flags only the target changes,
a register or the four bytes of memory it names; PL and IF only when the target is EFLAGS (41 R160, 40 R157).
Rests on the spec's D4, D9, D11, D12, D15, D19, D21, D27; log entries 4, 12, 15, 18, 23, 28. -/
def Obligations.AluFrame : Prop :=
  ∀ op1 op2 s t, ∀ i ∈ [Instr.add op1 op2, .adc op1 op2, .sub op1 op2, .sbb op1 op2, .mul op1 op2,
      .div op1 op2, .and op1 op2, .or op1 op2, .xor op1 op2, .shl op1 op2, .shr op1 op2],
    exec i s = .next t →
      TargetFrame [.eip, .eflags] op2 s t ∧ (targetReg op2 ≠ some .eflags → SameModeBits s t)

/-- The frame of NEG, NOT and CMP: as the two-operand instructions with the target in slot 1; CMP writes nothing
but the arithmetic flags and EIP (41 R165, R166; 42 R194; 40 R157). Rests on the spec's D4, D9, D11, D12, D19,
D21, D27, D38; log entries 4, 15, 18, 20, 23, 28. -/
def Obligations.NegNotCmpFrame : Prop :=
  (∀ op1 op2 s t, ∀ i ∈ [Instr.neg op1 op2, .not op1 op2], exec i s = .next t →
      TargetFrame [.eip, .eflags] op1 s t ∧ (targetReg op1 ≠ some .eflags → SameModeBits s t))
    ∧ (∀ op1 op2 s t, exec (.cmp op1 op2) s = .next t →
      SameRegsBut [.eip, .eflags] s t ∧ SameModeBits s t ∧ SameMemory s t ∧ SameMachine s t)

/-! ## Data movement and stack -/

/-- MOV completes on every readable source and writable target: the target takes the value, EIP advances, no
flag changes unless EFLAGS is the target; nothing else changes. NOP completes in every state, whatever its
operand slots hold, advances EIP by 12 modulo 2^32 and changes nothing else (43 R210, R211, 40 R153; opcode D4,
ignored operands D38). Rests on the spec's D4, D8, D9, D10, D11, D12, D19, D27, D30, D38; log entries 4, 15, 18,
19, 20, 23, 28. -/
def Obligations.MovAndNopResultAndFrame : Prop :=
  (∀ op1 op2 s v, srcVal s op1 = .ok v → TargetWritable s op2 →
      ∃ u, writeOp s op2 v = .ok u ∧ exec (.mov op1 op2) s = .next u.advance)
    ∧ (∀ op1 op2 s t, exec (.mov op1 op2) s = .next t → TargetFrame [.eip] op2 s t)
    ∧ (∀ op1 op2 s, ∃ t, exec (.nop op1 op2) s = .next t ∧ t.eip = s.eip + 12#32
      ∧ SameRegsBut [.eip] s t ∧ SameMemory s t ∧ SameMachine s t)

/-- PUSH decrements ESP by 4, then reads its source, so with the new ESP, and stores it at the new ESP (43 R212;
that the source is read after the decrement is the spec's D21). Rests on the spec's D4, D19, D21, D27, D30, D38;
log entries 18, 20, 23, 28. -/
def Obligations.PushResult : Prop :=
  ∀ op1 op2 s v pa, srcVal (s.setEsp (s.esp - 4#32)) op1 = .ok v →
    mmuTranslate s (s.esp - 4#32) .write = .ok pa → pa + 3 ≤ s.capacity.toNat →
    ∃ t, exec (.push op1 op2) s = .next t ∧ t.esp = s.esp - 4#32 ∧ t.eip = s.eip + 12#32
      ∧ t.ram.readWord pa = v ∧ SameMemoryBut pa 4 s t ∧ SameRegsBut [.esp, .eip] s t ∧ SameMachine s t

/-- POP reads the DoubleWord at ESP, writes the target, then adds 4 to the ESP that write left, so a popped ESP
ends at the value plus 4 (43 R213; the order is the spec's D21). Rests on the spec's D4, D7, D9, D10, D11, D12,
D19, D21, D30, D38; log entries 4, 15, 19, 20, 23, 24, 28. -/
def Obligations.PopResult : Prop :=
  (∀ op1 op2 s v, memRead32 s s.esp = .ok v → TargetWritable s op1 →
      ∃ u, writeOp s op1 v = .ok u ∧ exec (.pop op1 op2) s = .next (u.setEsp (u.esp + 4#32)).advance)
    ∧ (∀ op2 s v, memRead32 s s.esp = .ok v →
      ∃ t, exec (.pop (.reg 4#32) op2) s = .next t ∧ t.esp = v + 4#32)

/-- PUSHF and POPF in kernel mode move the flags byte, and only that byte, through a 4-byte slot (43 R214, R215;
byte, slot and position are the spec's D14). Rests on the spec's D4, D9, D14, D19, D30, D38; log entries 3, 20,
23. -/
def Obligations.PushfAndPopfResult : Prop :=
  (∀ op1 op2 s pa, s.pl = kernelPL → mmuTranslate s (s.esp - 4#32) .write = .ok pa →
      pa ≤ s.capacity.toNat →
      ∃ t, exec (.pushf op1 op2) s = .next t ∧ t.esp = s.esp - 4#32 ∧ t.eip = s.eip + 12#32
        ∧ t.ram.read pa = s.flagsByte ∧ SameMemoryBut pa 1 s t ∧ SameRegsBut [.esp, .eip] s t
        ∧ SameMachine s t)
    ∧ (∀ op1 op2 s pa, s.pl = kernelPL → mmuTranslate s s.esp .read = .ok pa → pa ≤ s.capacity.toNat →
      ∃ t, exec (.popf op1 op2) s = .next t ∧ t.esp = s.esp + 4#32 ∧ t.eip = s.eip + 12#32
        ∧ t.flagsByte = s.ram.read pa ∧ SameMemory s t ∧ SameRegsBut [.esp, .eip, .eflags] s t
        ∧ SameMachine s t)

/-- The frame of the stack instructions: ESP, EIP, the popped target and the pushed slot, at the address the MMU
translates for ESP - 4, are all that changes; POPF also loads EFLAGS (43 R212 to R216, 44 R238, R239). Rests on
the spec's D4, D9, D11, D12, D14, D19, D21, D27, D30, D38; log entries 4, 15, 18, 20, 23, 28. -/
def Obligations.StackFrame : Prop :=
  (∀ op1 op2 s t, ∀ i ∈ [Instr.push op1 op2, .call op1 op2], exec i s = .next t →
      SameRegsBut [.esp, .eip] s t ∧ SameMachine s t
        ∧ ∀ pa, mmuTranslate s (s.esp - 4#32) .write = .ok pa → SameMemoryBut pa 4 s t)
    ∧ (∀ op1 op2 s t, exec (.pushf op1 op2) s = .next t →
      SameRegsBut [.esp, .eip] s t ∧ SameMachine s t
        ∧ ∀ pa, mmuTranslate s (s.esp - 4#32) .write = .ok pa → SameMemoryBut pa 1 s t)
    ∧ (∀ op1 op2 s t, exec (.pop op1 op2) s = .next t → TargetFrame [.esp, .eip] op1 s t)
    ∧ (∀ op1 op2 s t, exec (.popf op1 op2) s = .next t →
      SameRegsBut [.esp, .eip, .eflags] s t ∧ SameMemory s t ∧ SameMachine s t)
    ∧ (∀ op1 op2 s t, exec (.ret op1 op2) s = .next t →
      SameRegsBut [.esp, .eip] s t ∧ SameMemory s t ∧ SameMachine s t)

/-! ## Control flow -/

/-- JMP goes to its target; each conditional jump, JE and JNE among them, goes there exactly when its condition
on ZF, SF, OF holds and else advances, without evaluating the operand; nothing but EIP changes (44 R230 to R237;
JLE's conjunction is the spec's D36, log entry 14). Rests on the spec's D4, D9, D19, D20, D21, D24, D30, D36,
D37, D38; log entries 6, 14, 20, 23, 28. -/
def Obligations.JumpsTakenExactlyOnTheirCondition : Prop :=
  ∀ op1 op2 s,
    let z := flagZF s.flagsByte
    let n := flagSF s.flagsByte
    let o := flagOF s.flagsByte
    (∀ a, addrVal s op1 = .ok a → exec (.jmp op1 op2) s = .next (s.setEip a))
      ∧ ∀ p ∈ [(Instr.jz op1 op2, z), (.je op1 op2, z), (.jnz op1 op2, !z), (.jne op1 op2, !z),
          (.jg op1 op2, !z && o == n), (.jge op1 op2, o == n), (.jl op1 op2, o != n),
          (.jle op1 op2, z && o != n)],
        (p.2 = true → ∀ a, addrVal s op1 = .ok a → exec p.1 s = .next (s.setEip a))
          ∧ (p.2 = true → ∀ f, addrVal s op1 = .error f → exec p.1 s = .fault f)
          ∧ (p.2 = false → op1 ≠ .no → exec p.1 s = .next s.advance)

/-- What the conditional jumps decide after a comparison: JZ equality; JG, JGE, JL the signed order of second
and first operand unless the first is 0x80000000; JLE only 0x80000000 against itself (44 R232 to R237, 41 R163;
the consequences are the spec's own derivations). Rests on the spec's D18, D21, D36, D41; log entries 14, 28. -/
def Obligations.JumpsAfterCompareDecideSignedOrder : Prop :=
  ∀ op1 op2 s t a b, srcVal s op1 = .ok b → srcVal s op2 = .ok a → exec (.cmp op1 op2) s = .next t →
    (condZ t.flagsByte = true ↔ a = b) ∧ (condNZ t.flagsByte = true ↔ a ≠ b)
      ∧ (b ≠ 0x80000000#32 →
        (condG t.flagsByte = true ↔ b.toInt < a.toInt) ∧ (condGE t.flagsByte = true ↔ b.toInt ≤ a.toInt)
          ∧ (condL t.flagsByte = true ↔ a.toInt < b.toInt))
      ∧ (condLE t.flagsByte = true ↔ a = 0x80000000#32 ∧ b = 0x80000000#32)

/-- CALL pushes EIP + 12 and goes to its target, evaluated after the push; RET pops EIP (44 R238, R239). Rests
on the spec's D4, D19, D20, D21, D27, D30, D38; log entries 18, 20, 23, 28. -/
def Obligations.CallAndRetResult : Prop :=
  (∀ op1 op2 s pa a, mmuTranslate s (s.esp - 4#32) .write = .ok pa → pa + 3 ≤ s.capacity.toNat →
      let s1 := (s.setEsp (s.esp - 4#32)).setRam (s.ram.writeWord pa (s.eip + 12#32))
      addrVal s1 op1 = .ok a →
      exec (.call op1 op2) s = .next (s1.setEip a) ∧ s1.ram.readWord pa = s.eip + 12#32)
    ∧ (∀ op1 op2 s ra, memRead32 s s.esp = .ok ra →
      exec (.ret op1 op2) s = .next ((s.setEsp (s.esp + 4#32)).setEip ra))

/-- The stack discipline: POP undoes PUSH of one register, not ESP and not EIP, and RET undoes CALL: ESP and
every register but EIP are as before and the flow continues behind; in real mode, and in paged mode when the
push did not change the stack page's own entry (43 R212, R213; 44 R238 to R240). Rests on the spec's D4, D7,
D11, D12, D19, D20, D21, D25, D26, D27, D30, D38; log entries 4, 15, 18, 20, 23, 24, 28. -/
def Obligations.PopUndoesPushAndRetUndoesCall : Prop :=
  (∀ c x y s t, TargetWritable s (.reg c) → targetReg (.reg c) ≠ some .esp →
      targetReg (.reg c) ≠ some .eip → exec (.push (.reg c) x) s = .next t →
      (s.pg = true →
        t.ram.readWord (pteAddr s (s.esp - 4#32)) = s.ram.readWord (pteAddr s (s.esp - 4#32))) →
      ∃ u, exec (.pop (.reg c) y) t = .next u ∧ SameRegsBut [.eip] s u ∧ u.eip = s.eip + 24#32
        ∧ SameMemory t u)
    ∧ (∀ op1 op2 x y s t, exec (.call op1 op2) s = .next t →
      (s.pg = true →
        t.ram.readWord (pteAddr s (s.esp - 4#32)) = s.ram.readWord (pteAddr s (s.esp - 4#32))) →
      ∃ u, exec (.ret x y) t = .next u ∧ u.eip = s.eip + 12#32 ∧ SameRegsBut [.eip] s u ∧ SameMemory t u)

/-! ## System instructions and privilege -/

/-- CLI and STI in kernel mode clear and set IF, change no other flag, and advance (45 R250, R251). Rests on the
spec's D4, D9, D19, D30, D38; log entries 20, 23. -/
def Obligations.CliAndStiResult : Prop :=
  ∀ op1 op2 s, s.pl = kernelPL → ∀ p ∈ [(Instr.cli op1 op2, false), (.sti op1 op2, true)],
    ∃ t, exec p.1 s = .next t ∧ flagIF t.flagsByte = p.2 ∧ flagPL t.flagsByte = flagPL s.flagsByte
      ∧ arithOf t.flagsByte = arithOf s.flagsByte ∧ t.eip = s.eip + 12#32
      ∧ SameRegsBut [.eip, .eflags] s t ∧ SameMemory s t ∧ SameMachine s t

/-- The six kernel-only instructions fault with PrivilegeViolation at every other level, whatever their slots
hold (60 R293; for IRET and SYSEXIT the check is the spec's D35). Rests on the spec's D4, D10, D24, D35, D38;
log entries 19, 20, 21. -/
def Obligations.KernelOnlyInstructionsFaultElsewhere : Prop :=
  ∀ op1 op2 s, s.pl ≠ kernelPL →
    ∀ i ∈ [Instr.cli op1 op2, .sti op1 op2, .pushf op1 op2, .popf op1 op2, .iret op1 op2, .sysexit op1 op2],
      exec i s = .fault .privilegeViolation

/-- Trap entry by INT and SYSENTER, at every privilege level (45 R252, R254, R256; 60 R289): PL and IF cleared
first, the flags byte so cleared in the first byte of the slot at ESP - 4, EIP + 12 at ESP - 8, EIP at ITP + n
or at the operand; nothing else changes. The slot layout and the target are the spec's D14, D34. Rests on the
spec's D4, D9, D14, D19, D20, D21, D27, D30, D34, D38; log entries 3, 16, 18, 20, 23, 28. -/
def Obligations.TrapEntrySavesAndTransfers : Prop :=
  ∀ op1 op2 s pa1 pa2,
    let k := s.enterKernel
    let m := (k.setEsp (s.esp - 4#32)).setRam (s.ram.write pa1 k.flagsByte)
    mmuTranslate k (s.esp - 4#32) .write = .ok pa1 → pa1 ≤ s.capacity.toNat →
    mmuTranslate m (s.esp - 8#32) .write = .ok pa2 → pa2 + 3 ≤ s.capacity.toNat →
    ∀ p ∈ [(Instr.int op1 op2, (srcVal k op1).map (s.itp + ·)), (.sysenter op1 op2, addrVal k op1)],
      ∀ target, p.2 = .ok target →
        ∃ t, exec p.1 s = .next t ∧ t.eip = target ∧ t.esp = s.esp - 8#32
          ∧ flagPL t.flagsByte = kernelPL ∧ flagIF t.flagsByte = false
          ∧ arithOf t.flagsByte = arithOf s.flagsByte
          ∧ t.ram.read pa1 = t.flagsByte ∧ t.ram.readWord pa2 = s.eip + 12#32
          ∧ SameRegsBut [.eip, .esp, .eflags] s t ∧ SameMachine s t
          ∧ (∀ x, x ≠ pa1 → (x < pa2 ∨ pa2 + 4 ≤ x) → t.ram.read x = s.ram.read x)

/-- Trap return by IRET and SYSEXIT in kernel mode (45 R253, R255; 60 R290): EIP is the popped address, the
arithmetic flags are the popped byte's, IF = 1 and PL = 11, and ESP moves by 8; nothing else changes. The forced
IF and PL and SYSEXIT's steps are the spec's D35. Rests on the spec's D4, D9, D14, D27, D30, D35, D38; log
entries 3, 18, 20, 21, 23. -/
def Obligations.TrapReturnRestoresAndLeavesKernel : Prop :=
  ∀ op1 op2 s ra b, s.pl = kernelPL → memRead32 s s.esp = .ok ra → memRead8 s (s.esp + 4#32) = .ok b →
    ∀ i ∈ [Instr.iret op1 op2, .sysexit op1 op2],
      ∃ t, exec i s = .next t ∧ t.eip = ra ∧ t.esp = s.esp + 8#32
        ∧ flagPL t.flagsByte = userPL ∧ flagIF t.flagsByte = true ∧ arithOf t.flagsByte = arithOf b
        ∧ t.flagsByte = 0xC0#8 ||| (b &&& 0x3E#8) ||| 0x01#8
        ∧ SameRegsBut [.eip, .esp, .eflags] s t ∧ SameMemory s t ∧ SameMachine s t

/-- IRET right after INT (or SYSEXIT right after SYSENTER) continues behind it with ESP, every other register
and the arithmetic flags as before, in user mode with IF set, whatever they were, and the memory as the entry
left it; in real mode, and in paged mode when the entries the two pushes were translated by still stand when the
return pops: that of the first push's page, and that of the second's as the first push left it (45 R252 to R256,
60 R290, 70 R316; D35). Rests on the spec's D4, D9, D14, D20, D21, D25, D26, D27, D30, D34, D35, D38; log
entries 3, 16, 18, 20, 21, 23, 28. -/
def Obligations.InterruptThenReturn : Prop :=
  ∀ op1 op2 x y s t,
    ∀ p ∈ [(Instr.int op1 op2, Instr.iret x y), (.sysenter op1 op2, .sysexit x y)], exec p.1 s = .next t →
      (s.pg = true → ∀ pa, mmuTranslate s.enterKernel (s.esp - 4#32) .write = .ok pa →
        t.ram.readWord (pteAddr s (s.esp - 4#32)) = s.ram.readWord (pteAddr s (s.esp - 4#32))
          ∧ t.ram.readWord (pteAddr s (s.esp - 8#32))
            = (s.ram.write pa s.enterKernel.flagsByte).readWord (pteAddr s (s.esp - 8#32))) →
      ∃ u, exec p.2 t = .next u ∧ u.eip = s.eip + 12#32 ∧ u.esp = s.esp
        ∧ arithOf u.flagsByte = arithOf s.flagsByte ∧ flagPL u.flagsByte = userPL
        ∧ flagIF u.flagsByte = true ∧ SameRegsBut [.eip, .eflags] s u ∧ SameMemory t u

/-- The checks a handler makes first (40 R154; 60 R276, R277): an instruction raises MissingOperand exactly when
a slot it needs is `NO`, and with its slots present raises UnsupportedOperandType when the one it writes is an
immediate, in every state. Rests on the spec's D4, D8, D24, D38, D41; log entries 20, 28. -/
def Obligations.OperandChecksComeFirst : Prop :=
  (∀ i s, exec i s = .fault .missingOperand ↔ i.presentOk = false)
    ∧ (∀ i s, i.presentOk = true → i.targetOk = false → exec i s = .fault .unsupportedOperandType)

/-! ## The whole machine -/

/-- Every step keeps the state invariant, PG and CAPACITY: the RAM stays in canonical form inside [0, CAPACITY]
and an absent GPTP holds nothing (20 R62, R65; 10 R40, R41). Rests on the spec's D12, D31; log entry 4. -/
def Obligations.StepKeepsTheStateInvariant : Prop :=
  ∀ s t, s.wf = true → step s = .next t → t.wf = true ∧ t.pg = s.pg ∧ t.capacity = s.capacity

/-- Reset leaves every register 0, GPTP absent, PG = 0, kernel mode, IF = 0, every RAM byte 0, and the state
invariant (10 R45, 70 R310, R311: the spec's decision D32; the CAPACITY is the model's, log entry 1). Rests on
the spec's D12, D31, D32; log entries 1, 4, 22. -/
def Obligations.ResetValues : Prop :=
  (∀ r, State.reset.getReg r = 0#32) ∧ State.reset.pg = false ∧ State.reset.hasReg .gptp = false
    ∧ State.reset.pl = kernelPL ∧ flagIF State.reset.flagsByte = false
    ∧ (∀ x, State.reset.ram.read x = 0x00#8) ∧ State.reset.wf = true
    ∧ Sys2Proof.core.reset = State.resetWith Config.defaultCapacity

/-- Every operation of the host port keeps the state invariant and CAPACITY, so every state a host can reach
from reset, by cycles that end as they may and any other operation between them, has it (60 R295 to R303, 20
R62, R65, 10 R41). That a refused host access to the absent GPTP leaves the state is the model's choice (log
entry 8), as is that a host RAM access out of range faults and changes nothing (log entry 9); GPTP's content is
the spec's D12 (log entry 4), the state after a fault its D22 (log entry 11), the reset its D32 (log entry 22).
Rests on the spec's D12, D22, D31, D32, D40; log entries 4, 8, 9, 11, 22. -/
def Obligations.EveryReachableStateIsWellFormed : Prop :=
  (∀ op s, s.wf = true → (hostStep op s).2.wf = true ∧ (hostStep op s).2.capacity = s.capacity)
    ∧ (∀ c s, Reachable c s → s.wf = true ∧ s.capacity = c)

/-- The only ways a step changes the privilege level (60 R294): out of kernel mode INT and SYSENTER, to kernel
mode; out of kernel mode's own level IRET and SYSEXIT, to user mode, and POPF or an operand write of EFLAGS.
Rests on the spec's D9, D10, D11, D14, D35; log entries 3, 15, 19, 21. -/
def Obligations.PrivilegeLevelChangesOnlyByItsInstructions : Prop :=
  ∀ i s t, exec i s = .next t → t.pl ≠ s.pl →
    (s.pl ≠ kernelPL → t.pl = kernelPL ∧ ∃ a b, i = .int a b ∨ i = .sysenter a b)
      ∧ (s.pl = kernelPL →
        (t.pl = userPL ∧ ∃ a b, i = .iret a b ∨ i = .sysexit a b)
          ∨ (∃ a b, i = .popf a b)
          ∨ (∃ op, writtenOperand i = some op ∧ targetReg op = some .eflags))

/-- A step that starts out of kernel mode leaves ITP, PTP, NPTP, GPTP, VMPTR, PG and CAPACITY, has the fetched
word in EIR, and leaves PL and IF unless it enters the kernel (60 R280, R293; 10 R40; the list beyond EIR, GPTP,
NPTP and VMPTR is the spec's D11, log entry 15). Rests on the spec's D7, D9, D10, D11, D12, D13, D28, D35; log
entries 4, 15, 19, 21, 23. -/
def Obligations.UserStepLeavesPrivilegedState : Prop :=
  ∀ s t, s.pl ≠ kernelPL → step s = .next t →
    SameRegsBut [.eax, .ebx, .ecx, .esp, .eip, .eir, .eflags] s t ∧ SameMachine s t
      ∧ memFetch s s.eip = .ok t.eir
      ∧ (SameModeBits s t ∨ (flagPL t.flagsByte = kernelPL ∧ flagIF t.flagsByte = false))

/-- Memory isolation: in paged mode a step that starts and ends out of kernel mode changes a byte only within
four bytes of an address whose page's entry is present, writable and not kernel-only (20 R81, R84; 60 R293; the
predicate and the single translation are the spec's D25, D27, log entry 18). Rests on the spec's D10, D25, D26,
D27, D30, D31, D35, D42; log entries 18, 19, 21, 24. -/
def Obligations.UserStepWritesOnlyUserWritablePages : Prop :=
  ∀ s t x, s.pg = true → s.pl ≠ kernelPL → step s = .next t → t.pl ≠ kernelPL →
    t.ram.read x ≠ s.ram.read x →
    ∃ va : Word,
      let pte := s.ram.readWord (pteAddr s va)
      pteAddr s va + 3 ≤ s.capacity.toNat ∧ ptePresent pte = true ∧ pteWritable pte = true
        ∧ pteKernelOnly pte = false
        ∧ (ptePfn pte ++ pageOffset va).toNat ≤ x ∧ x < (ptePfn pte ++ pageOffset va).toNat + 4

/-- No cycle and no host `int` raises WidthMismatch (60 R272). Rests on the spec's D34; log entry 10. -/
def Obligations.WidthMismatchIsNeverRaised : Prop :=
  (∀ s, step s ≠ .fault .widthMismatch) ∧ (∀ op s, (hostStep (.int op) s).1 ≠ .fault .widthMismatch)

/-! ## The host port -/

/-- `enterKernelMode` makes PL 00 and `enterUserMode` makes it 11; no other bit changes, nothing is saved and
no check is made (60 R297, R298). -/
def Obligations.HostModeSwitches : Prop :=
  ∀ s, ∀ p ∈ [(HostOp.enterKernelMode, 0b00#2), (.enterUserMode, 0b11#2)],
    let t := (hostStep p.1 s).2
    (hostStep p.1 s).1 = .done ∧ t.pl = p.2 ∧ t = { s with flagsByte := t.flagsByte }
      ∧ ∀ k, k < 6 → t.flagsByte.getLsbD k = s.flagsByte.getLsbD k

/-- The other host operations: paging on and off with GPTP's content, register and RAM access without a
privilege check, the absent GPTP refused, a later reset, which leaves the RAM, and `int(op)`, which is the INT
instruction between cycles with EIR not written (60 R299 to R302; 70 R310, R311; decisions D12 and D32 of the
spec; the refusal and the RAM bound are log entries 8 and 9). Rests on the spec's D9, D12, D31, D32, D34, D40;
log entries 3, 4, 8, 9, 16, 22. -/
def Obligations.HostPortOperations : Prop :=
  (∀ s, (hostStep .enableMemoryVirtualization s) =
      (.done, if s.pg = true then s else { s with pg := true, gptp := 0#32 }))
    ∧ (∀ s, (hostStep .disableMemoryVirtualization s) =
      (.done, if s.pg = true then { s with pg := false, gptp := 0#32 } else s))
    ∧ (∀ s r, s.hasReg r = true → hostStep (.regGet r) s = (.word (s.getReg r), s))
    ∧ (∀ s r v, s.hasReg r = true → ∃ t, hostStep (.regSet r v) s = (.done, t)
      ∧ t.getReg r = (if r = .eflags then v.extractLsb' 24 8 ++ 0#24 else v)
      ∧ SameRegsBut [r] s t ∧ SameMemory s t ∧ SameMachine s t)
    ∧ (∀ s v, s.pg = false → hostStep (.regGet .gptp) s = (.refused .hostAccessToAbsentGptp, s)
      ∧ hostStep (.regSet .gptp v) s = (.refused .hostAccessToAbsentGptp, s))
    ∧ (∀ s pa b, pa ≤ s.capacity.toNat → hostStep (.ramRead pa) s = (.byte (s.ram.read pa), s)
      ∧ hostStep (.ramWrite pa b) s = (.done, s.setRam (s.ram.write pa b)))
    ∧ (∀ s, (hostStep .reset s).1 = .done ∧ (∀ r, (hostStep .reset s).2.getReg r = 0#32)
      ∧ (hostStep .reset s).2.pg = false ∧ SameMemory s (hostStep .reset s).2
      ∧ (hostStep .reset s).2.capacity = s.capacity)
    ∧ (∀ op x s, (∀ t, exec (.int op x) s = .next t ↔ hostStep (.int op) s = (.done, t))
      ∧ (∀ f, exec (.int op x) s = .fault f ↔ hostStep (.int op) s = (.fault f, s))
      ∧ (hostStep (.int op) s).2.eir = s.eir)

/-! ## The assembler -/

/-- The assembler succeeds exactly when every instruction line makes an instruction from its operand texts and
the labels of pass 1, and its output is then their three words each, in source order, and nothing for a label or
blank line; it fails exactly by naming the first line that makes none, by its 1-based number in the source; a
bare label is a MEM operand of the address `count * 12`, count being the instructions before its declaration (30
R120, R122, R125, R126). What a line accepts, that the first of two declarations counts, and which lines are
numbered are the model's choices (log entries 26 and 30). Rests on the spec's D2, D3, D4, D5, D6, D7, D20, D37;
log entries 20, 24, 25, 26, 29, 30. -/
def Obligations.AssemblerEmitsThreeWordsPerInstruction : Prop :=
  (∀ source ws, assemble source = .ok ws ↔
      ∃ is : List Instr,
        is.map some = (source.filterMap AsmLine.instr?).map (fun l =>
            (parseOperands (collectLabels 0 source) l.2).bind (asmInstr l.1))
          ∧ ws = is.flatMap (fun i => [(encode i).1, (encode i).2.1, (encode i).2.2]))
    ∧ (∀ mnemonic ops i, asmInstr mnemonic ops = some i → i.wellFormed = true)
    ∧ (∀ source n, assemble source = .error (.unrecognizedInstruction n) ↔
      ∃ pre mnemonic texts post, source = pre ++ .instr mnemonic texts :: post ∧ n = pre.length + 1
        ∧ (parseOperands (collectLabels 0 source) texts).bind (asmInstr mnemonic) = none
        ∧ ∀ l ∈ pre.filterMap AsmLine.instr?,
          (parseOperands (collectLabels 0 source) l.2).bind (asmInstr l.1) ≠ none)
    ∧ (∀ pre name post, .label name ∉ pre → name.head? ∉ [some '$', some '@', some '%', some '*'] →
      parseOperand (collectLabels 0 (pre ++ .label name :: post)) name =
        some (.mem (BitVec.ofNat 32 ((pre.filterMap AsmLine.instr?).length * 12))))
end

