-- ==== Sys2Proof/Laws/Flags.lean ====
section
/-! SUPPORT. The flags byte: reading a field of a packed byte, and packing the fields of a byte. -/

namespace Sys2Proof.Machine

@[simp] theorem flagPL_packFlags :
    ∀ pl zf sf cf of pf ie, flagPL (packFlags pl zf sf cf of pf ie) = pl := by decide
@[simp] theorem flagZF_packFlags :
    ∀ pl zf sf cf of pf ie, flagZF (packFlags pl zf sf cf of pf ie) = zf := by decide
@[simp] theorem flagSF_packFlags :
    ∀ pl zf sf cf of pf ie, flagSF (packFlags pl zf sf cf of pf ie) = sf := by decide
@[simp] theorem flagCF_packFlags :
    ∀ pl zf sf cf of pf ie, flagCF (packFlags pl zf sf cf of pf ie) = cf := by decide
@[simp] theorem flagOF_packFlags :
    ∀ pl zf sf cf of pf ie, flagOF (packFlags pl zf sf cf of pf ie) = of := by decide
@[simp] theorem flagPF_packFlags :
    ∀ pl zf sf cf of pf ie, flagPF (packFlags pl zf sf cf of pf ie) = pf := by decide
@[simp] theorem flagIF_packFlags :
    ∀ pl zf sf cf of pf ie, flagIF (packFlags pl zf sf cf of pf ie) = ie := by decide

/-- A byte is what its fields pack to: the fields are the whole of it (R30). -/
theorem packFlags_fields : ∀ b : Byte,
    packFlags (flagPL b) (flagZF b) (flagSF b) (flagCF b) (flagOF b) (flagPF b) (flagIF b) = b := by
  decide

@[simp] theorem flagPL_withPL (b : Byte) (p : BitVec 2) : flagPL (withPL b p) = p := by simp [withPL]
@[simp] theorem flagIF_withPL (b : Byte) (p : BitVec 2) : flagIF (withPL b p) = flagIF b := by simp [withPL]
@[simp] theorem arithOf_withPL (b : Byte) (p : BitVec 2) : arithOf (withPL b p) = arithOf b := by
  simp [withPL, arithOf]

@[simp] theorem flagPL_withIF (b : Byte) (e : Bool) : flagPL (withIF b e) = flagPL b := by simp [withIF]
@[simp] theorem flagIF_withIF (b : Byte) (e : Bool) : flagIF (withIF b e) = e := by simp [withIF]
@[simp] theorem arithOf_withIF (b : Byte) (e : Bool) : arithOf (withIF b e) = arithOf b := by
  simp [withIF, arithOf]

@[simp] theorem flagPL_withArith (b : Byte) (f : ArithFlags) : flagPL (withArith b f) = flagPL b := by
  simp [withArith]
@[simp] theorem flagIF_withArith (b : Byte) (f : ArithFlags) : flagIF (withArith b f) = flagIF b := by
  simp [withArith]
@[simp] theorem arithOf_withArith (b : Byte) (f : ArithFlags) : arithOf (withArith b f) = f := by
  simp [withArith, arithOf]

@[simp] theorem flagPL_returnFlags (b : Byte) : flagPL (returnFlags b) = userPL := by simp [returnFlags]
@[simp] theorem flagIF_returnFlags (b : Byte) : flagIF (returnFlags b) = true := by simp [returnFlags]
@[simp] theorem arithOf_returnFlags (b : Byte) : arithOf (returnFlags b) = arithOf b := by
  simp [returnFlags]

end Sys2Proof.Machine
end

