-- ==== Sys2Proof/Laws/Memory.lean ====
section
/-! SUPPORT. The laws of the RAM list: a read after a write, the frame of a write, and that every write
keeps the canonical form and the bound. The read and write laws hold of every list. -/

namespace Sys2Proof.Machine

@[simp] theorem read_nil (x : Nat) : Memory.read [] x = 0#8 := rfl

theorem read_erase_self (m : Memory) (x : Nat) : (Memory.erase m x).read x = 0#8 := by
  induction m with
  | nil => rfl
  | cons c rest ih =>
    by_cases h : c.1 = x
    · simpa [Memory.erase, h] using ih
    · simpa [Memory.erase, Memory.read, h] using ih

theorem read_erase_other (m : Memory) {x y : Nat} (hxy : y ≠ x) : (Memory.erase m x).read y = m.read y := by
  induction m with
  | nil => rfl
  | cons c rest ih =>
    by_cases h : c.1 = x
    · have hy : c.1 ≠ y := fun e => hxy (e.symm.trans h)
      simp only [Memory.erase, if_pos h, Memory.read, if_neg hy, ih]
    · simp only [Memory.erase, if_neg h, Memory.read, ih]

theorem read_insert_other (m : Memory) {x y : Nat} (v : Byte) (hxy : y ≠ x) :
    (Memory.insert m x v).read y = m.read y := by
  have hx : x ≠ y := fun e => hxy e.symm
  induction m with
  | nil => simp [Memory.insert, Memory.read, hx, Memory.unlisted]
  | cons c rest ih =>
    by_cases h : x < c.1
    · simp only [Memory.insert, if_pos h, Memory.read, if_neg hx]
    · simp only [Memory.insert, if_neg h, Memory.read, ih]

theorem read_insert_erase_self (m : Memory) (x : Nat) (v : Byte) :
    (Memory.insert (Memory.erase m x) x v).read x = v := by
  induction m with
  | nil => simp [Memory.erase, Memory.insert, Memory.read]
  | cons c rest ih =>
    by_cases hc : c.1 = x
    · simpa only [Memory.erase, if_pos hc] using ih
    · simp only [Memory.erase, if_neg hc]
      by_cases h : x < c.1
      · simp [Memory.insert, Memory.read, h]
      · simp only [Memory.insert, if_neg h, Memory.read, if_neg hc, ih]

/-- A byte read where it was written is the byte written (R61, R62). -/
@[simp] theorem read_write_self (m : Memory) (x : Nat) (v : Byte) : (m.write x v).read x = v := by
  by_cases h : v = Memory.unlisted
  · subst h
    simp only [Memory.write, if_true]
    exact read_erase_self m x
  · simp only [Memory.write, if_neg h, read_insert_erase_self]

/-- A write leaves every other byte (R62). -/
theorem read_write_other (m : Memory) {x y : Nat} (v : Byte) (h : y ≠ x) :
    (m.write x v).read y = m.read y := by
  by_cases hv : v = Memory.unlisted
  · simp only [Memory.write, if_pos hv, read_erase_other m h]
  · simp only [Memory.write, if_neg hv, read_insert_other _ v h, read_erase_other m h]

/-- A word write leaves every byte outside its four. -/
theorem read_writeWord_other (m : Memory) {pa x : Nat} (v : Word) (h : x < pa ∨ pa + 4 ≤ x) :
    (m.writeWord pa v).read x = m.read x := by
  have h0 : x ≠ pa := by omega
  have h1 : x ≠ pa + 1 := by omega
  have h2 : x ≠ pa + 2 := by omega
  have h3 : x ≠ pa + 3 := by omega
  simp only [Memory.writeWord, read_write_other _ _ h0, read_write_other _ _ h1, read_write_other _ _ h2,
    read_write_other _ _ h3]

/-- The four bytes of a word write, most significant lowest (R64, R67). -/
theorem read_writeWord (m : Memory) (pa : Nat) (v : Word) :
    (m.writeWord pa v).read pa = v.extractLsb' 24 8
      ∧ (m.writeWord pa v).read (pa + 1) = v.extractLsb' 16 8
      ∧ (m.writeWord pa v).read (pa + 2) = v.extractLsb' 8 8
      ∧ (m.writeWord pa v).read (pa + 3) = v.extractLsb' 0 8 := by
  refine ⟨?_, ?_, ?_, ?_⟩
  · simp only [Memory.writeWord]
    rw [read_write_other _ _ (by omega), read_write_other _ _ (by omega), read_write_other _ _ (by omega),
      read_write_self]
  · simp only [Memory.writeWord]
    rw [read_write_other _ _ (by omega), read_write_other _ _ (by omega), read_write_self]
  · simp only [Memory.writeWord]
    rw [read_write_other _ _ (by omega), read_write_self]
  · simp only [Memory.writeWord, read_write_self]

/-- The four bytes of a word, put together again, are the word. -/
theorem word_of_slices (v : Word) :
    v.extractLsb' 24 8 ++ v.extractLsb' 16 8 ++ v.extractLsb' 8 8 ++ v.extractLsb' 0 8 = v := by
  apply BitVec.eq_of_getLsbD_eq
  intro i hi
  simp only [BitVec.getLsbD_append, BitVec.getLsbD_extractLsb']
  by_cases h0 : i < 8
  · simp [h0]
  · by_cases h1 : i < 16
    · simp [h0, show i - 8 < 8 by omega, show 8 + (i - 8) = i by omega]
    · by_cases h2 : i < 24
      · simp [h0, show ¬ i - 8 < 8 by omega, show i - 8 - 8 < 8 by omega,
          show 16 + (i - 8 - 8) = i by omega]
      · simp [h0, show ¬ i - 8 < 8 by omega, show ¬ i - 8 - 8 < 8 by omega,
          show i - 8 - 8 - 8 < 8 by omega, show 24 + (i - 8 - 8 - 8) = i by omega]

/-- A word read where it was written is the word written. -/
@[simp] theorem readWord_writeWord_self (m : Memory) (pa : Nat) (v : Word) :
    (m.writeWord pa v).readWord pa = v := by
  obtain ⟨h0, h1, h2, h3⟩ := read_writeWord m pa v
  simp only [Memory.readWord, h0, h1, h2, h3, word_of_slices]

/-- A word read whose four bytes a change leaves alone is unchanged. -/
theorem readWord_congr {m m' : Memory} {pa : Nat}
    (h : ∀ x, pa ≤ x → x < pa + 4 → m'.read x = m.read x) : m'.readWord pa = m.readWord pa := by
  simp only [Memory.readWord, h pa (by omega) (by omega), h (pa + 1) (by omega) (by omega),
    h (pa + 2) (by omega) (by omega), h (pa + 3) (by omega) (by omega)]

/-- A word read four bytes or more away from a word write is unchanged. -/
theorem readWord_writeWord_other (m : Memory) {pa pb : Nat} (v : Word) (h : pb + 4 ≤ pa ∨ pa + 4 ≤ pb) :
    (m.writeWord pa v).readWord pb = m.readWord pb :=
  readWord_congr (fun _ hx hx' => read_writeWord_other m v (by omega))

/-! ## The canonical form -/

theorem all_erase {p : Host.Cell → Bool} (m : Memory) (x : Nat) (h : m.all p = true) :
    (Memory.erase m x).all p = true := by
  induction m with
  | nil => rfl
  | cons c rest ih =>
    simp only [List.all_cons, Bool.and_eq_true] at h
    by_cases hc : c.1 = x
    · simpa only [Memory.erase, if_pos hc] using ih h.2
    · simp only [Memory.erase, if_neg hc, List.all_cons, Bool.and_eq_true]
      exact ⟨h.1, ih h.2⟩

theorem all_insert {p : Host.Cell → Bool} (m : Memory) (x : Nat) (v : Byte) (h : m.all p = true)
    (hx : p (x, v) = true) : (Memory.insert m x v).all p = true := by
  induction m with
  | nil => simp [Memory.insert, hx]
  | cons c rest ih =>
    simp only [List.all_cons, Bool.and_eq_true] at h
    by_cases hc : x < c.1
    · simp only [Memory.insert, if_pos hc, List.all_cons, Bool.and_eq_true]
      exact ⟨hx, h⟩
    · simp only [Memory.insert, if_neg hc, List.all_cons, Bool.and_eq_true]
      exact ⟨h.1, ih h.2⟩

theorem wf_cons (c : Host.Cell) (rest : Memory) :
    Memory.wf (c :: rest) = true ↔
      c.2 ≠ 0#8 ∧ rest.all (fun d => decide (c.1 < d.1)) = true ∧ Memory.wf rest = true := by
  simp only [Memory.wf, Memory.unlisted, Bool.and_eq_true, bne_iff_ne, and_assoc]

theorem wf_erase (m : Memory) (x : Nat) (h : m.wf = true) : (Memory.erase m x).wf = true := by
  induction m with
  | nil => rfl
  | cons c rest ih =>
    obtain ⟨hb, hs, hw⟩ := (wf_cons c rest).1 h
    by_cases hc : c.1 = x
    · simpa only [Memory.erase, if_pos hc] using ih hw
    · simp only [Memory.erase, if_neg hc]
      exact (wf_cons c _).2 ⟨hb, all_erase rest x hs, ih hw⟩

theorem erase_ne (m : Memory) (x : Nat) : (Memory.erase m x).all (fun c => decide (c.1 ≠ x)) = true := by
  induction m with
  | nil => rfl
  | cons c rest ih =>
    by_cases hc : c.1 = x
    · simpa only [Memory.erase, if_pos hc] using ih
    · simp only [Memory.erase, if_neg hc, List.all_cons, Bool.and_eq_true, decide_eq_true_eq]
      exact ⟨hc, ih⟩

theorem wf_insert (m : Memory) (x : Nat) (v : Byte) (hv : v ≠ 0#8) (h : m.wf = true)
    (hx : m.all (fun c => decide (c.1 ≠ x)) = true) : (Memory.insert m x v).wf = true := by
  induction m with
  | nil => simp [Memory.insert, Memory.wf, Memory.unlisted, hv]
  | cons c rest ih =>
    obtain ⟨hb, hs, hw⟩ := (wf_cons c rest).1 h
    simp only [List.all_cons, Bool.and_eq_true, decide_eq_true_eq] at hx
    by_cases hc : x < c.1
    · simp only [Memory.insert, if_pos hc]
      refine (wf_cons (x, v) _).2 ⟨hv, ?_, h⟩
      simp only [List.all_cons, Bool.and_eq_true, decide_eq_true_eq]
      refine ⟨hc, ?_⟩
      rw [List.all_eq_true] at hs ⊢
      intro d hd
      have := hs d hd
      simp only [decide_eq_true_eq] at this ⊢
      omega
    · simp only [Memory.insert, if_neg hc]
      refine (wf_cons c _).2 ⟨hb, all_insert rest x v hs ?_, ih hw hx.2⟩
      have := hx.1
      simp only [decide_eq_true_eq]
      omega

/-- A byte write keeps the canonical form (R62). -/
theorem wf_write (m : Memory) (x : Nat) (v : Byte) (h : m.wf = true) : (m.write x v).wf = true := by
  by_cases hv : v = Memory.unlisted
  · simpa only [Memory.write, if_pos hv] using wf_erase m x h
  · simpa only [Memory.write, if_neg hv] using wf_insert _ x v hv (wf_erase m x h) (erase_ne m x)

/-- A word write keeps the canonical form. -/
theorem wf_writeWord (m : Memory) (pa : Nat) (v : Word) (h : m.wf = true) : (m.writeWord pa v).wf = true :=
  wf_write _ _ _ (wf_write _ _ _ (wf_write _ _ _ (wf_write _ _ _ h)))

/-- A byte write at a legal address keeps every entry at a legal address (R65). -/
theorem within_write (m : Memory) (x : Nat) (v : Byte) (c : Word) (h : m.within c = true)
    (hx : x ≤ c.toNat) : (m.write x v).within c = true := by
  by_cases hv : v = Memory.unlisted
  · simp only [Memory.write, if_pos hv]
    exact all_erase m x h
  · simp only [Memory.write, if_neg hv]
    exact all_insert _ x v (all_erase m x h) (decide_eq_true hx)

/-- A word write at legal addresses keeps every entry at a legal address. -/
theorem within_writeWord (m : Memory) (pa : Nat) (v : Word) (c : Word) (h : m.within c = true)
    (hx : pa + 3 ≤ c.toNat) : (m.writeWord pa v).within c = true :=
  within_write _ _ _ _ (within_write _ _ _ _ (within_write _ _ _ _ (within_write _ _ _ _ h (by omega))
    (by omega)) (by omega)) hx

end Sys2Proof.Machine
end

