-- ==== Sys2Proof/Laws/Outcome.lean ====
section
/-! SUPPORT. How a sequence of operations that can fault ends, and what `outcome` makes of it: the
lemmas that take a meaning apart without unfolding it. -/

namespace Sys2Proof.Machine

variable {ε α β : Type}

@[simp] theorem except_bind_ok (a : α) (f : α → Except ε β) : (Except.ok a >>= f) = f a := rfl

@[simp] theorem except_bind_error (e : ε) (f : α → Except ε β) :
    ((Except.error e : Except ε α) >>= f) = .error e := rfl

/-- Two answers are the same when their values are; the answered value is written on the left. -/
theorem except_ok_eq_ok {a b : α} : (Except.ok a : Except ε α) = .ok b ↔ b = a :=
  ⟨fun h => by cases h; rfl, fun h => by rw [h]⟩

theorem except_error_ne_ok {e : ε} {b : α} : ((Except.error e : Except ε α) = .ok b) ↔ False :=
  ⟨fun h => (nomatch h), False.elim⟩

/-- A sequence succeeds exactly when its first part does and the rest does with its value. -/
theorem except_bind_eq_ok {x : Except ε α} {f : α → Except ε β} {b : β} :
    (x >>= f) = .ok b ↔ ∃ a, x = .ok a ∧ f a = .ok b := by
  cases x <;> simp

/-- A sequence faults exactly when its first part does, or the rest does after it. -/
theorem except_bind_eq_error {x : Except ε α} {f : α → Except ε β} {e : ε} :
    (x >>= f) = .error e ↔ x = .error e ∨ ∃ a, x = .ok a ∧ f a = .error e := by
  cases x <;> simp

@[simp] theorem outcome_ok (t : State) : outcome (.ok t) = .next t := rfl
@[simp] theorem outcome_error (f : Fault) : outcome (.error f) = .fault f := rfl

theorem outcome_eq_next {r : Except Fault State} {t : State} : outcome r = .next t ↔ r = .ok t := by
  cases r <;> simp [outcome]

theorem outcome_eq_fault {r : Except Fault State} {f : Fault} : outcome r = .fault f ↔ r = .error f := by
  cases r <;> simp [outcome]

/-- No meaning is refused. -/
theorem outcome_ne_refused (r : Except Fault State) (x : Refusal) : outcome r ≠ .refused x := by
  cases r <;> simp [outcome]

end Sys2Proof.Machine
end

