-- ==== Sys2Proof/Laws/State.lean ====
section
/-! SUPPORT. One lemma per field per update of State, all true by unfolding the update once; later
proofs rewrite with them and never unfold a record update. -/

namespace Sys2Proof.Machine

/-! ### `setEip` -/

@[simp] theorem setEip_eax (s : State) (v : Word) : (s.setEip v).eax = s.eax := rfl
@[simp] theorem setEip_ebx (s : State) (v : Word) : (s.setEip v).ebx = s.ebx := rfl
@[simp] theorem setEip_ecx (s : State) (v : Word) : (s.setEip v).ecx = s.ecx := rfl
@[simp] theorem setEip_eip (s : State) (v : Word) : (s.setEip v).eip = v := rfl
@[simp] theorem setEip_esp (s : State) (v : Word) : (s.setEip v).esp = s.esp := rfl
@[simp] theorem setEip_eir (s : State) (v : Word) : (s.setEip v).eir = s.eir := rfl
@[simp] theorem setEip_flagsByte (s : State) (v : Word) : (s.setEip v).flagsByte = s.flagsByte := rfl
@[simp] theorem setEip_itp (s : State) (v : Word) : (s.setEip v).itp = s.itp := rfl
@[simp] theorem setEip_ptp (s : State) (v : Word) : (s.setEip v).ptp = s.ptp := rfl
@[simp] theorem setEip_nptp (s : State) (v : Word) : (s.setEip v).nptp = s.nptp := rfl
@[simp] theorem setEip_gptp (s : State) (v : Word) : (s.setEip v).gptp = s.gptp := rfl
@[simp] theorem setEip_vmptr (s : State) (v : Word) : (s.setEip v).vmptr = s.vmptr := rfl
@[simp] theorem setEip_pg (s : State) (v : Word) : (s.setEip v).pg = s.pg := rfl
@[simp] theorem setEip_ram (s : State) (v : Word) : (s.setEip v).ram = s.ram := rfl
@[simp] theorem setEip_capacity (s : State) (v : Word) : (s.setEip v).capacity = s.capacity := rfl

/-! ### `setEsp` -/

@[simp] theorem setEsp_eax (s : State) (v : Word) : (s.setEsp v).eax = s.eax := rfl
@[simp] theorem setEsp_ebx (s : State) (v : Word) : (s.setEsp v).ebx = s.ebx := rfl
@[simp] theorem setEsp_ecx (s : State) (v : Word) : (s.setEsp v).ecx = s.ecx := rfl
@[simp] theorem setEsp_eip (s : State) (v : Word) : (s.setEsp v).eip = s.eip := rfl
@[simp] theorem setEsp_esp (s : State) (v : Word) : (s.setEsp v).esp = v := rfl
@[simp] theorem setEsp_eir (s : State) (v : Word) : (s.setEsp v).eir = s.eir := rfl
@[simp] theorem setEsp_flagsByte (s : State) (v : Word) : (s.setEsp v).flagsByte = s.flagsByte := rfl
@[simp] theorem setEsp_itp (s : State) (v : Word) : (s.setEsp v).itp = s.itp := rfl
@[simp] theorem setEsp_ptp (s : State) (v : Word) : (s.setEsp v).ptp = s.ptp := rfl
@[simp] theorem setEsp_nptp (s : State) (v : Word) : (s.setEsp v).nptp = s.nptp := rfl
@[simp] theorem setEsp_gptp (s : State) (v : Word) : (s.setEsp v).gptp = s.gptp := rfl
@[simp] theorem setEsp_vmptr (s : State) (v : Word) : (s.setEsp v).vmptr = s.vmptr := rfl
@[simp] theorem setEsp_pg (s : State) (v : Word) : (s.setEsp v).pg = s.pg := rfl
@[simp] theorem setEsp_ram (s : State) (v : Word) : (s.setEsp v).ram = s.ram := rfl
@[simp] theorem setEsp_capacity (s : State) (v : Word) : (s.setEsp v).capacity = s.capacity := rfl

/-! ### `setEir` -/

@[simp] theorem setEir_eax (s : State) (v : Word) : (s.setEir v).eax = s.eax := rfl
@[simp] theorem setEir_ebx (s : State) (v : Word) : (s.setEir v).ebx = s.ebx := rfl
@[simp] theorem setEir_ecx (s : State) (v : Word) : (s.setEir v).ecx = s.ecx := rfl
@[simp] theorem setEir_eip (s : State) (v : Word) : (s.setEir v).eip = s.eip := rfl
@[simp] theorem setEir_esp (s : State) (v : Word) : (s.setEir v).esp = s.esp := rfl
@[simp] theorem setEir_eir (s : State) (v : Word) : (s.setEir v).eir = v := rfl
@[simp] theorem setEir_flagsByte (s : State) (v : Word) : (s.setEir v).flagsByte = s.flagsByte := rfl
@[simp] theorem setEir_itp (s : State) (v : Word) : (s.setEir v).itp = s.itp := rfl
@[simp] theorem setEir_ptp (s : State) (v : Word) : (s.setEir v).ptp = s.ptp := rfl
@[simp] theorem setEir_nptp (s : State) (v : Word) : (s.setEir v).nptp = s.nptp := rfl
@[simp] theorem setEir_gptp (s : State) (v : Word) : (s.setEir v).gptp = s.gptp := rfl
@[simp] theorem setEir_vmptr (s : State) (v : Word) : (s.setEir v).vmptr = s.vmptr := rfl
@[simp] theorem setEir_pg (s : State) (v : Word) : (s.setEir v).pg = s.pg := rfl
@[simp] theorem setEir_ram (s : State) (v : Word) : (s.setEir v).ram = s.ram := rfl
@[simp] theorem setEir_capacity (s : State) (v : Word) : (s.setEir v).capacity = s.capacity := rfl

/-! ### `setFlagsByte` -/

@[simp] theorem setFlagsByte_eax (s : State) (b : Byte) : (s.setFlagsByte b).eax = s.eax := rfl
@[simp] theorem setFlagsByte_ebx (s : State) (b : Byte) : (s.setFlagsByte b).ebx = s.ebx := rfl
@[simp] theorem setFlagsByte_ecx (s : State) (b : Byte) : (s.setFlagsByte b).ecx = s.ecx := rfl
@[simp] theorem setFlagsByte_eip (s : State) (b : Byte) : (s.setFlagsByte b).eip = s.eip := rfl
@[simp] theorem setFlagsByte_esp (s : State) (b : Byte) : (s.setFlagsByte b).esp = s.esp := rfl
@[simp] theorem setFlagsByte_eir (s : State) (b : Byte) : (s.setFlagsByte b).eir = s.eir := rfl
@[simp] theorem setFlagsByte_flagsByte (s : State) (b : Byte) : (s.setFlagsByte b).flagsByte = b := rfl
@[simp] theorem setFlagsByte_itp (s : State) (b : Byte) : (s.setFlagsByte b).itp = s.itp := rfl
@[simp] theorem setFlagsByte_ptp (s : State) (b : Byte) : (s.setFlagsByte b).ptp = s.ptp := rfl
@[simp] theorem setFlagsByte_nptp (s : State) (b : Byte) : (s.setFlagsByte b).nptp = s.nptp := rfl
@[simp] theorem setFlagsByte_gptp (s : State) (b : Byte) : (s.setFlagsByte b).gptp = s.gptp := rfl
@[simp] theorem setFlagsByte_vmptr (s : State) (b : Byte) : (s.setFlagsByte b).vmptr = s.vmptr := rfl
@[simp] theorem setFlagsByte_pg (s : State) (b : Byte) : (s.setFlagsByte b).pg = s.pg := rfl
@[simp] theorem setFlagsByte_ram (s : State) (b : Byte) : (s.setFlagsByte b).ram = s.ram := rfl
@[simp] theorem setFlagsByte_capacity (s : State) (b : Byte) : (s.setFlagsByte b).capacity = s.capacity := rfl

/-! ### `setRam` -/

@[simp] theorem setRam_eax (s : State) (m : Memory) : (s.setRam m).eax = s.eax := rfl
@[simp] theorem setRam_ebx (s : State) (m : Memory) : (s.setRam m).ebx = s.ebx := rfl
@[simp] theorem setRam_ecx (s : State) (m : Memory) : (s.setRam m).ecx = s.ecx := rfl
@[simp] theorem setRam_eip (s : State) (m : Memory) : (s.setRam m).eip = s.eip := rfl
@[simp] theorem setRam_esp (s : State) (m : Memory) : (s.setRam m).esp = s.esp := rfl
@[simp] theorem setRam_eir (s : State) (m : Memory) : (s.setRam m).eir = s.eir := rfl
@[simp] theorem setRam_flagsByte (s : State) (m : Memory) : (s.setRam m).flagsByte = s.flagsByte := rfl
@[simp] theorem setRam_itp (s : State) (m : Memory) : (s.setRam m).itp = s.itp := rfl
@[simp] theorem setRam_ptp (s : State) (m : Memory) : (s.setRam m).ptp = s.ptp := rfl
@[simp] theorem setRam_nptp (s : State) (m : Memory) : (s.setRam m).nptp = s.nptp := rfl
@[simp] theorem setRam_gptp (s : State) (m : Memory) : (s.setRam m).gptp = s.gptp := rfl
@[simp] theorem setRam_vmptr (s : State) (m : Memory) : (s.setRam m).vmptr = s.vmptr := rfl
@[simp] theorem setRam_pg (s : State) (m : Memory) : (s.setRam m).pg = s.pg := rfl
@[simp] theorem setRam_ram (s : State) (m : Memory) : (s.setRam m).ram = m := rfl
@[simp] theorem setRam_capacity (s : State) (m : Memory) : (s.setRam m).capacity = s.capacity := rfl

/-! ### `setPL` -/

@[simp] theorem setPL_eax (s : State) (p : BitVec 2) : (s.setPL p).eax = s.eax := rfl
@[simp] theorem setPL_ebx (s : State) (p : BitVec 2) : (s.setPL p).ebx = s.ebx := rfl
@[simp] theorem setPL_ecx (s : State) (p : BitVec 2) : (s.setPL p).ecx = s.ecx := rfl
@[simp] theorem setPL_eip (s : State) (p : BitVec 2) : (s.setPL p).eip = s.eip := rfl
@[simp] theorem setPL_esp (s : State) (p : BitVec 2) : (s.setPL p).esp = s.esp := rfl
@[simp] theorem setPL_eir (s : State) (p : BitVec 2) : (s.setPL p).eir = s.eir := rfl
@[simp] theorem setPL_flagsByte (s : State) (p : BitVec 2) : (s.setPL p).flagsByte = withPL s.flagsByte p := rfl
@[simp] theorem setPL_itp (s : State) (p : BitVec 2) : (s.setPL p).itp = s.itp := rfl
@[simp] theorem setPL_ptp (s : State) (p : BitVec 2) : (s.setPL p).ptp = s.ptp := rfl
@[simp] theorem setPL_nptp (s : State) (p : BitVec 2) : (s.setPL p).nptp = s.nptp := rfl
@[simp] theorem setPL_gptp (s : State) (p : BitVec 2) : (s.setPL p).gptp = s.gptp := rfl
@[simp] theorem setPL_vmptr (s : State) (p : BitVec 2) : (s.setPL p).vmptr = s.vmptr := rfl
@[simp] theorem setPL_pg (s : State) (p : BitVec 2) : (s.setPL p).pg = s.pg := rfl
@[simp] theorem setPL_ram (s : State) (p : BitVec 2) : (s.setPL p).ram = s.ram := rfl
@[simp] theorem setPL_capacity (s : State) (p : BitVec 2) : (s.setPL p).capacity = s.capacity := rfl

/-! ### `setIF` -/

@[simp] theorem setIF_eax (s : State) (e : Bool) : (s.setIF e).eax = s.eax := rfl
@[simp] theorem setIF_ebx (s : State) (e : Bool) : (s.setIF e).ebx = s.ebx := rfl
@[simp] theorem setIF_ecx (s : State) (e : Bool) : (s.setIF e).ecx = s.ecx := rfl
@[simp] theorem setIF_eip (s : State) (e : Bool) : (s.setIF e).eip = s.eip := rfl
@[simp] theorem setIF_esp (s : State) (e : Bool) : (s.setIF e).esp = s.esp := rfl
@[simp] theorem setIF_eir (s : State) (e : Bool) : (s.setIF e).eir = s.eir := rfl
@[simp] theorem setIF_flagsByte (s : State) (e : Bool) : (s.setIF e).flagsByte = withIF s.flagsByte e := rfl
@[simp] theorem setIF_itp (s : State) (e : Bool) : (s.setIF e).itp = s.itp := rfl
@[simp] theorem setIF_ptp (s : State) (e : Bool) : (s.setIF e).ptp = s.ptp := rfl
@[simp] theorem setIF_nptp (s : State) (e : Bool) : (s.setIF e).nptp = s.nptp := rfl
@[simp] theorem setIF_gptp (s : State) (e : Bool) : (s.setIF e).gptp = s.gptp := rfl
@[simp] theorem setIF_vmptr (s : State) (e : Bool) : (s.setIF e).vmptr = s.vmptr := rfl
@[simp] theorem setIF_pg (s : State) (e : Bool) : (s.setIF e).pg = s.pg := rfl
@[simp] theorem setIF_ram (s : State) (e : Bool) : (s.setIF e).ram = s.ram := rfl
@[simp] theorem setIF_capacity (s : State) (e : Bool) : (s.setIF e).capacity = s.capacity := rfl

/-! ### `setArith` -/

@[simp] theorem setArith_eax (s : State) (f : ArithFlags) : (s.setArith f).eax = s.eax := rfl
@[simp] theorem setArith_ebx (s : State) (f : ArithFlags) : (s.setArith f).ebx = s.ebx := rfl
@[simp] theorem setArith_ecx (s : State) (f : ArithFlags) : (s.setArith f).ecx = s.ecx := rfl
@[simp] theorem setArith_eip (s : State) (f : ArithFlags) : (s.setArith f).eip = s.eip := rfl
@[simp] theorem setArith_esp (s : State) (f : ArithFlags) : (s.setArith f).esp = s.esp := rfl
@[simp] theorem setArith_eir (s : State) (f : ArithFlags) : (s.setArith f).eir = s.eir := rfl
@[simp] theorem setArith_flagsByte (s : State) (f : ArithFlags) : (s.setArith f).flagsByte = withArith s.flagsByte f := rfl
@[simp] theorem setArith_itp (s : State) (f : ArithFlags) : (s.setArith f).itp = s.itp := rfl
@[simp] theorem setArith_ptp (s : State) (f : ArithFlags) : (s.setArith f).ptp = s.ptp := rfl
@[simp] theorem setArith_nptp (s : State) (f : ArithFlags) : (s.setArith f).nptp = s.nptp := rfl
@[simp] theorem setArith_gptp (s : State) (f : ArithFlags) : (s.setArith f).gptp = s.gptp := rfl
@[simp] theorem setArith_vmptr (s : State) (f : ArithFlags) : (s.setArith f).vmptr = s.vmptr := rfl
@[simp] theorem setArith_pg (s : State) (f : ArithFlags) : (s.setArith f).pg = s.pg := rfl
@[simp] theorem setArith_ram (s : State) (f : ArithFlags) : (s.setArith f).ram = s.ram := rfl
@[simp] theorem setArith_capacity (s : State) (f : ArithFlags) : (s.setArith f).capacity = s.capacity := rfl

/-! ### `advance` -/

@[simp] theorem advance_eax (s : State) : (s.advance).eax = s.eax := rfl
@[simp] theorem advance_ebx (s : State) : (s.advance).ebx = s.ebx := rfl
@[simp] theorem advance_ecx (s : State) : (s.advance).ecx = s.ecx := rfl
@[simp] theorem advance_eip (s : State) : (s.advance).eip = s.eip + 12#32 := rfl
@[simp] theorem advance_esp (s : State) : (s.advance).esp = s.esp := rfl
@[simp] theorem advance_eir (s : State) : (s.advance).eir = s.eir := rfl
@[simp] theorem advance_flagsByte (s : State) : (s.advance).flagsByte = s.flagsByte := rfl
@[simp] theorem advance_itp (s : State) : (s.advance).itp = s.itp := rfl
@[simp] theorem advance_ptp (s : State) : (s.advance).ptp = s.ptp := rfl
@[simp] theorem advance_nptp (s : State) : (s.advance).nptp = s.nptp := rfl
@[simp] theorem advance_gptp (s : State) : (s.advance).gptp = s.gptp := rfl
@[simp] theorem advance_vmptr (s : State) : (s.advance).vmptr = s.vmptr := rfl
@[simp] theorem advance_pg (s : State) : (s.advance).pg = s.pg := rfl
@[simp] theorem advance_ram (s : State) : (s.advance).ram = s.ram := rfl
@[simp] theorem advance_capacity (s : State) : (s.advance).capacity = s.capacity := rfl

/-! ### `enterKernel` -/

@[simp] theorem enterKernel_eax (s : State) : (s.enterKernel).eax = s.eax := rfl
@[simp] theorem enterKernel_ebx (s : State) : (s.enterKernel).ebx = s.ebx := rfl
@[simp] theorem enterKernel_ecx (s : State) : (s.enterKernel).ecx = s.ecx := rfl
@[simp] theorem enterKernel_eip (s : State) : (s.enterKernel).eip = s.eip := rfl
@[simp] theorem enterKernel_esp (s : State) : (s.enterKernel).esp = s.esp := rfl
@[simp] theorem enterKernel_eir (s : State) : (s.enterKernel).eir = s.eir := rfl
@[simp] theorem enterKernel_flagsByte (s : State) : (s.enterKernel).flagsByte = withIF (withPL s.flagsByte kernelPL) false := rfl
@[simp] theorem enterKernel_itp (s : State) : (s.enterKernel).itp = s.itp := rfl
@[simp] theorem enterKernel_ptp (s : State) : (s.enterKernel).ptp = s.ptp := rfl
@[simp] theorem enterKernel_nptp (s : State) : (s.enterKernel).nptp = s.nptp := rfl
@[simp] theorem enterKernel_gptp (s : State) : (s.enterKernel).gptp = s.gptp := rfl
@[simp] theorem enterKernel_vmptr (s : State) : (s.enterKernel).vmptr = s.vmptr := rfl
@[simp] theorem enterKernel_pg (s : State) : (s.enterKernel).pg = s.pg := rfl
@[simp] theorem enterKernel_ram (s : State) : (s.enterKernel).ram = s.ram := rfl
@[simp] theorem enterKernel_capacity (s : State) : (s.enterKernel).capacity = s.capacity := rfl

/-! ### `fetched` -/

@[simp] theorem fetched_eax (s : State) (w : Word) : (fetched s w).eax = s.eax := rfl
@[simp] theorem fetched_ebx (s : State) (w : Word) : (fetched s w).ebx = s.ebx := rfl
@[simp] theorem fetched_ecx (s : State) (w : Word) : (fetched s w).ecx = s.ecx := rfl
@[simp] theorem fetched_eip (s : State) (w : Word) : (fetched s w).eip = s.eip := rfl
@[simp] theorem fetched_esp (s : State) (w : Word) : (fetched s w).esp = s.esp := rfl
@[simp] theorem fetched_eir (s : State) (w : Word) : (fetched s w).eir = w := rfl
@[simp] theorem fetched_flagsByte (s : State) (w : Word) : (fetched s w).flagsByte = s.flagsByte := rfl
@[simp] theorem fetched_itp (s : State) (w : Word) : (fetched s w).itp = s.itp := rfl
@[simp] theorem fetched_ptp (s : State) (w : Word) : (fetched s w).ptp = s.ptp := rfl
@[simp] theorem fetched_nptp (s : State) (w : Word) : (fetched s w).nptp = s.nptp := rfl
@[simp] theorem fetched_gptp (s : State) (w : Word) : (fetched s w).gptp = s.gptp := rfl
@[simp] theorem fetched_vmptr (s : State) (w : Word) : (fetched s w).vmptr = s.vmptr := rfl
@[simp] theorem fetched_pg (s : State) (w : Word) : (fetched s w).pg = s.pg := rfl
@[simp] theorem fetched_ram (s : State) (w : Word) : (fetched s w).ram = s.ram := rfl
@[simp] theorem fetched_capacity (s : State) (w : Word) : (fetched s w).capacity = s.capacity := rfl

/-! ### Views that an update leaves alone -/

@[simp] theorem setEip_pl (s : State) (v : Word) : (s.setEip v).pl = s.pl := rfl
@[simp] theorem setEip_cf (s : State) (v : Word) : (s.setEip v).cf = s.cf := rfl
@[simp] theorem setEip_eflags (s : State) (v : Word) : (s.setEip v).eflags = s.eflags := rfl
@[simp] theorem setEsp_pl (s : State) (v : Word) : (s.setEsp v).pl = s.pl := rfl
@[simp] theorem setEsp_cf (s : State) (v : Word) : (s.setEsp v).cf = s.cf := rfl
@[simp] theorem setEsp_eflags (s : State) (v : Word) : (s.setEsp v).eflags = s.eflags := rfl
@[simp] theorem setEir_pl (s : State) (v : Word) : (s.setEir v).pl = s.pl := rfl
@[simp] theorem setEir_cf (s : State) (v : Word) : (s.setEir v).cf = s.cf := rfl
@[simp] theorem setEir_eflags (s : State) (v : Word) : (s.setEir v).eflags = s.eflags := rfl
@[simp] theorem setRam_pl (s : State) (m : Memory) : (s.setRam m).pl = s.pl := rfl
@[simp] theorem setRam_cf (s : State) (m : Memory) : (s.setRam m).cf = s.cf := rfl
@[simp] theorem setRam_eflags (s : State) (m : Memory) : (s.setRam m).eflags = s.eflags := rfl
@[simp] theorem advance_pl (s : State) : (s.advance).pl = s.pl := rfl
@[simp] theorem advance_cf (s : State) : (s.advance).cf = s.cf := rfl
@[simp] theorem advance_eflags (s : State) : (s.advance).eflags = s.eflags := rfl
@[simp] theorem fetched_pl (s : State) (w : Word) : (fetched s w).pl = s.pl := rfl
@[simp] theorem fetched_cf (s : State) (w : Word) : (fetched s w).cf = s.cf := rfl
@[simp] theorem fetched_eflags (s : State) (w : Word) : (fetched s w).eflags = s.eflags := rfl
@[simp] theorem setEip_hasReg (s : State) (v : Word) (r : Reg) : (s.setEip v).hasReg r = s.hasReg r := rfl
@[simp] theorem setEsp_hasReg (s : State) (v : Word) (r : Reg) : (s.setEsp v).hasReg r = s.hasReg r := rfl
@[simp] theorem setEir_hasReg (s : State) (v : Word) (r : Reg) : (s.setEir v).hasReg r = s.hasReg r := rfl
@[simp] theorem setFlagsByte_hasReg (s : State) (b : Byte) (r : Reg) : (s.setFlagsByte b).hasReg r = s.hasReg r := rfl
@[simp] theorem setRam_hasReg (s : State) (m : Memory) (r : Reg) : (s.setRam m).hasReg r = s.hasReg r := rfl
@[simp] theorem setPL_hasReg (s : State) (p : BitVec 2) (r : Reg) : (s.setPL p).hasReg r = s.hasReg r := rfl
@[simp] theorem setIF_hasReg (s : State) (e : Bool) (r : Reg) : (s.setIF e).hasReg r = s.hasReg r := rfl
@[simp] theorem setArith_hasReg (s : State) (f : ArithFlags) (r : Reg) : (s.setArith f).hasReg r = s.hasReg r := rfl
@[simp] theorem advance_hasReg (s : State) (r : Reg) : (s.advance).hasReg r = s.hasReg r := rfl
@[simp] theorem enterKernel_hasReg (s : State) (r : Reg) : (s.enterKernel).hasReg r = s.hasReg r := rfl
@[simp] theorem fetched_hasReg (s : State) (w : Word) (r : Reg) : (fetched s w).hasReg r = s.hasReg r := rfl

/-! ### `setReg`: the fields no register is, and the registers themselves -/

@[simp] theorem setReg_pg (s : State) (r : Reg) (v : Word) : (s.setReg r v).pg = s.pg := by cases r <;> rfl
@[simp] theorem setReg_ram (s : State) (r : Reg) (v : Word) : (s.setReg r v).ram = s.ram := by cases r <;> rfl
@[simp] theorem setReg_capacity (s : State) (r : Reg) (v : Word) : (s.setReg r v).capacity = s.capacity := by
  cases r <;> rfl

/-- A raw write is read back, but for EFLAGS, which keeps bits 31:24 only. -/
theorem getReg_setReg_self (s : State) (r : Reg) (v : Word) (h : r ≠ .eflags) : (s.setReg r v).getReg r = v := by
  cases r <;> first | exact absurd rfl h | rfl

/-- EFLAGS after a raw write: bits 31:24 of the value above 24 zero bits (R30, R136). -/
theorem getReg_setReg_eflags (s : State) (v : Word) :
    (s.setReg .eflags v).getReg .eflags = v.extractLsb' 24 8 ++ 0#24 := rfl

/-- A raw write changes no other register. -/
theorem getReg_setReg_other (s : State) (r r' : Reg) (v : Word) (h : r' ≠ r) :
    (s.setReg r v).getReg r' = s.getReg r' := by
  cases r <;> cases r' <;> first | exact absurd rfl h | rfl

/-- A raw write of a register other than EFLAGS leaves the flags byte. -/
theorem setReg_flagsByte (s : State) (r : Reg) (v : Word) (h : r ≠ .eflags) :
    (s.setReg r v).flagsByte = s.flagsByte := by
  cases r <;> first | exact absurd rfl h | rfl

/-- A raw write of a register other than GPTP leaves GPTP. -/
theorem setReg_gptp (s : State) (r : Reg) (v : Word) (h : r ≠ .gptp) : (s.setReg r v).gptp = s.gptp := by
  cases r <;> first | exact absurd rfl h | rfl

/-! ### The host's paging switches and reset -/

@[simp] theorem enablePaging_pg (s : State) : s.enablePaging.pg = true := by
  cases h : s.pg <;> simp [State.enablePaging, h]

@[simp] theorem disablePaging_pg (s : State) : s.disablePaging.pg = false := by
  cases h : s.pg <;> simp [State.disablePaging, h]

@[simp] theorem enablePaging_ram (s : State) : s.enablePaging.ram = s.ram := by
  cases h : s.pg <;> simp [State.enablePaging, h]

@[simp] theorem disablePaging_ram (s : State) : s.disablePaging.ram = s.ram := by
  cases h : s.pg <;> simp [State.disablePaging, h]

@[simp] theorem enablePaging_capacity (s : State) : s.enablePaging.capacity = s.capacity := by
  cases h : s.pg <;> simp [State.enablePaging, h]

@[simp] theorem disablePaging_capacity (s : State) : s.disablePaging.capacity = s.capacity := by
  cases h : s.pg <;> simp [State.disablePaging, h]

@[simp] theorem resetAgain_ram (s : State) : s.resetAgain.ram = s.ram := rfl
@[simp] theorem resetAgain_capacity (s : State) : s.resetAgain.capacity = s.capacity := rfl
@[simp] theorem resetAgain_pg (s : State) : s.resetAgain.pg = false := rfl
@[simp] theorem resetAgain_gptp (s : State) : s.resetAgain.gptp = 0#32 := rfl

end Sys2Proof.Machine
end

