-- ==== Sys2Proof/Laws/Ops.lean ====
section
/-! SUPPORT. One lemma for each shared operation that says once everything it can do: when it answers,
and with what. Later proofs cite these and unfold nothing. -/

namespace Sys2Proof.Machine

/-! ## Registers -/

/-- What a register read answers (R135). -/
theorem regRead_eq_ok {s : State} {c v : Word} :
    regRead s c = .ok v ↔ ∃ r, Reg.ofCode c = some r ∧ s.hasReg r = true ∧ v = s.getReg r := by
  unfold regRead
  cases Reg.ofCode c with
  | none => simp
  | some r => cases h : s.hasReg r <;> simp [h, except_ok_eq_ok, -Except.ok.injEq]

/-- What a register write leaves (R136). -/
theorem regWrite_eq_ok {s t : State} {c v : Word} :
    regWrite s c v = .ok t ↔ ∃ r, Reg.ofCode c = some r ∧ s.hasReg r = true
      ∧ (s.pl = kernelPL ∨ userWritable r = true) ∧ t = s.setReg r v := by
  unfold regWrite
  cases Reg.ofCode c with
  | none => simp
  | some r =>
    cases h : s.hasReg r with
    | false => simp [h]
    | true =>
      by_cases hp : s.pl = kernelPL
      · simp [h, hp, except_ok_eq_ok, -Except.ok.injEq]
      · cases hu : userWritable r <;> simp [h, hp, hu, except_ok_eq_ok, -Except.ok.injEq]

/-! ## The RAM port -/

/-- The bounds check passes exactly when the last byte is legal (R65). -/
theorem boundsCheck_eq_ok {s : State} {pa n : Nat} {u : Unit} :
    boundsCheck s pa n = .ok u ↔ pa + (n - 1) ≤ s.capacity.toNat := by
  unfold boundsCheck
  by_cases h1 : s.capacity.toNat < pa
  · rw [if_pos h1]
    exact ⟨fun h => by simp at h, fun h => absurd h (by omega)⟩
  · rw [if_neg h1]
    by_cases h2 : s.capacity.toNat < pa + (n - 1)
    · rw [if_pos h2]
      exact ⟨fun h => by simp at h, fun h => absurd h (by omega)⟩
    · rw [if_neg h2]
      exact ⟨fun _ => by omega, fun _ => rfl⟩

/-- The bounds check reads only CAPACITY (R65). -/
theorem boundsCheck_congr {s t : State} (hc : t.capacity = s.capacity) : boundsCheck t = boundsCheck s := by
  funext pa n
  unfold boundsCheck
  rw [hc]

theorem physRead8_eq_ok {s : State} {pa : Nat} {b : Byte} :
    physRead8 s pa = .ok b ↔ pa ≤ s.capacity.toNat ∧ b = s.ram.read pa := by
  simp [physRead8, except_bind_eq_ok, boundsCheck_eq_ok, except_ok_eq_ok, -Except.ok.injEq]

theorem physRead32_eq_ok {s : State} {pa : Nat} {v : Word} :
    physRead32 s pa = .ok v ↔ pa + 3 ≤ s.capacity.toNat ∧ v = s.ram.readWord pa := by
  simp [physRead32, except_bind_eq_ok, boundsCheck_eq_ok, except_ok_eq_ok, -Except.ok.injEq]

theorem physWrite8_eq_ok {s t : State} {pa : Nat} {b : Byte} :
    physWrite8 s pa b = .ok t ↔ pa ≤ s.capacity.toNat ∧ t = s.setRam (s.ram.write pa b) := by
  simp [physWrite8, except_bind_eq_ok, boundsCheck_eq_ok, except_ok_eq_ok, -Except.ok.injEq]

theorem physWrite32_eq_ok {s t : State} {pa : Nat} {v : Word} :
    physWrite32 s pa v = .ok t ↔ pa + 3 ≤ s.capacity.toNat ∧ t = s.setRam (s.ram.writeWord pa v) := by
  simp [physWrite32, except_bind_eq_ok, boundsCheck_eq_ok, except_ok_eq_ok, -Except.ok.injEq]

/-! ## The MMU -/

/-- Real mode passes the address through (R75). -/
theorem translate_real {s : State} (h : s.pg = false) (va : Word) (k : Access) :
    mmuTranslate s va k = .ok va.toNat := by
  simp [mmuTranslate, h]

/-- What a paged translation answers (R79 to R82). -/
theorem translate_paged_eq_ok {s : State} (h : s.pg = true) {va : Word} {k : Access} {pa : Nat} :
    mmuTranslate s va k = .ok pa ↔ pteAddr s va + 3 ≤ s.capacity.toNat
      ∧ ptePresent (s.ram.readWord (pteAddr s va)) = true
      ∧ permitted (s.ram.readWord (pteAddr s va)) k s.pl = true
      ∧ pa = (ptePfn (s.ram.readWord (pteAddr s va)) ++ pageOffset va).toNat := by
  simp only [mmuTranslate, h, if_true, except_bind_eq_ok, physRead32_eq_ok]
  constructor
  · rintro ⟨pte, ⟨hb, rfl⟩, ht⟩
    cases hp : ptePresent (s.ram.readWord (pteAddr s va)) with
    | false => simp [hp] at ht
    | true =>
      cases hm : permitted (s.ram.readWord (pteAddr s va)) k s.pl with
      | false => simp [hp, hm] at ht
      | true =>
        simp only [hp, hm] at ht
        simp at ht
        exact ⟨hb, rfl, rfl, ht.symm⟩
  · rintro ⟨hb, hp, hm, rfl⟩
    exact ⟨_, ⟨hb, rfl⟩, by simp [hp, hm]⟩

/-- Translation keeps the offset in the page (R75, R82). -/
theorem translate_mod_page {s : State} {va : Word} {k : Access} {pa : Nat} (h : mmuTranslate s va k = .ok pa) :
    pa % 4096 = va.toNat % 4096 := by
  cases hp : s.pg with
  | false => rw [translate_real hp] at h; cases h; rfl
  | true =>
    obtain ⟨-, -, -, rfl⟩ := (translate_paged_eq_ok hp).1 h
    rw [BitVec.toNat_append, pageOffset, BitVec.extractLsb'_toNat, ← Nat.shiftLeft_add_eq_or_of_lt (by omega),
      Nat.shiftLeft_eq]
    omega

/-- Where any access was translated to, kernel mode reads, as long as the page's entry stands (R81). -/
theorem translate_kernel_read {s t : State} {va : Word} {k : Access} {pa : Nat}
    (h : mmuTranslate s va k = .ok pa) (ht : t.pl = kernelPL) (hpg : t.pg = s.pg) (hc : t.capacity = s.capacity)
    (hptp : t.ptp = s.ptp)
    (he : s.pg = true → t.ram.readWord (pteAddr s va) = s.ram.readWord (pteAddr s va)) :
    mmuTranslate t va .read = .ok pa := by
  cases hp : s.pg with
  | false => rw [translate_real hp] at h; rw [translate_real (hpg.trans hp)]; exact h
  | true =>
    obtain ⟨hb, hpr, -, rfl⟩ := (translate_paged_eq_ok hp).1 h
    have hpa : pteAddr t va = pteAddr s va := by simp only [pteAddr, hptp]
    rw [translate_paged_eq_ok (hpg.trans hp), hpa, he hp, hc, ht]
    exact ⟨hb, hpr, by simp [permitted], rfl⟩

/-- Translation reads only PG, PTP, PL, CAPACITY and the RAM (R88). -/
theorem translate_congr {s t : State} (hpg : t.pg = s.pg) (hptp : t.ptp = s.ptp) (hpl : t.pl = s.pl)
    (hc : t.capacity = s.capacity) (hr : t.ram = s.ram) (va : Word) (k : Access) :
    mmuTranslate t va k = mmuTranslate s va k := by
  have hread : physRead32 t = physRead32 s := by
    funext pa
    simp only [physRead32, boundsCheck_congr hc, hr]
  have hpte : pteAddr t va = pteAddr s va := by simp only [pteAddr, hptp]
  simp only [mmuTranslate, hread, hpte, hpg, hpl]

@[simp] theorem translate_setEsp (s : State) (v va : Word) (k : Access) :
    mmuTranslate (s.setEsp v) va k = mmuTranslate s va k := rfl
@[simp] theorem translate_setEip (s : State) (v va : Word) (k : Access) :
    mmuTranslate (s.setEip v) va k = mmuTranslate s va k := rfl
@[simp] theorem translate_setEir (s : State) (v va : Word) (k : Access) :
    mmuTranslate (s.setEir v) va k = mmuTranslate s va k := rfl
@[simp] theorem translate_fetched (s : State) (v va : Word) (k : Access) :
    mmuTranslate (fetched s v) va k = mmuTranslate s va k := rfl

/-- A physical address in paged mode is below 2^32: 20 bits of frame and 12 of offset (R76, R82). -/
theorem translate_lt {s : State} {va : Word} {k : Access} {pa : Nat} (h : mmuTranslate s va k = .ok pa) :
    pa < 2 ^ 32 := by
  cases hpg : s.pg with
  | false =>
    rw [translate_real hpg] at h
    cases h
    exact va.isLt
  | true =>
    obtain ⟨-, -, -, rfl⟩ := (translate_paged_eq_ok hpg).1 h
    exact BitVec.isLt _

/-! ## The access primitives -/

theorem memRead32_eq_ok {s : State} {va v : Word} :
    memRead32 s va = .ok v ↔
      ∃ pa, mmuTranslate s va .read = .ok pa ∧ pa + 3 ≤ s.capacity.toNat ∧ v = s.ram.readWord pa := by
  simp only [memRead32, except_bind_eq_ok, physRead32_eq_ok]

theorem memRead8_eq_ok {s : State} {va : Word} {b : Byte} :
    memRead8 s va = .ok b ↔
      ∃ pa, mmuTranslate s va .read = .ok pa ∧ pa ≤ s.capacity.toNat ∧ b = s.ram.read pa := by
  simp only [memRead8, except_bind_eq_ok, physRead8_eq_ok]

theorem memWrite32_eq_ok {s t : State} {va v : Word} :
    memWrite32 s va v = .ok t ↔
      ∃ pa, mmuTranslate s va .write = .ok pa ∧ pa + 3 ≤ s.capacity.toNat
        ∧ t = s.setRam (s.ram.writeWord pa v) := by
  simp only [memWrite32, except_bind_eq_ok, physWrite32_eq_ok]

theorem memWrite8_eq_ok {s t : State} {va : Word} {b : Byte} :
    memWrite8 s va b = .ok t ↔
      ∃ pa, mmuTranslate s va .write = .ok pa ∧ pa ≤ s.capacity.toNat ∧ t = s.setRam (s.ram.write pa b) := by
  simp only [memWrite8, except_bind_eq_ok, physWrite8_eq_ok]

theorem memFetch_eq_ok {s : State} {va v : Word} :
    memFetch s va = .ok v ↔
      ∃ pa, mmuTranslate s va .execute = .ok pa ∧ pa + 3 ≤ s.capacity.toNat ∧ v = s.ram.readWord pa := by
  simp only [memFetch, except_bind_eq_ok, physRead32_eq_ok]

/-! ## The stack -/

theorem push32_eq_ok {s t : State} {v : Word} :
    push32 s v = .ok t ↔
      ∃ pa, mmuTranslate s (s.esp - 4#32) .write = .ok pa ∧ pa + 3 ≤ s.capacity.toNat
        ∧ t = (s.setEsp (s.esp - 4#32)).setRam (s.ram.writeWord pa v) := by
  simp only [push32, memWrite32_eq_ok, translate_setEsp, setEsp_capacity, setEsp_ram]

theorem push8_eq_ok {s t : State} {b : Byte} :
    push8 s b = .ok t ↔
      ∃ pa, mmuTranslate s (s.esp - 4#32) .write = .ok pa ∧ pa ≤ s.capacity.toNat
        ∧ t = (s.setEsp (s.esp - 4#32)).setRam (s.ram.write pa b) := by
  simp only [push8, memWrite8_eq_ok, translate_setEsp, setEsp_capacity, setEsp_ram]

theorem pop32_eq_ok {s : State} {x : Word × State} :
    pop32 s = .ok x ↔
      ∃ pa, mmuTranslate s s.esp .read = .ok pa ∧ pa + 3 ≤ s.capacity.toNat
        ∧ x = (s.ram.readWord pa, s.setEsp (s.esp + 4#32)) := by
  simp only [pop32, except_bind_eq_ok, memRead32_eq_ok]
  constructor
  · rintro ⟨v, ⟨pa, h1, h2, rfl⟩, h3⟩
    exact ⟨pa, h1, h2, by simpa only [except_ok_eq_ok] using h3⟩
  · rintro ⟨pa, h1, h2, rfl⟩
    exact ⟨_, ⟨pa, h1, h2, rfl⟩, rfl⟩

theorem pop8_eq_ok {s : State} {x : Byte × State} :
    pop8 s = .ok x ↔
      ∃ pa, mmuTranslate s s.esp .read = .ok pa ∧ pa ≤ s.capacity.toNat
        ∧ x = (s.ram.read pa, s.setEsp (s.esp + 4#32)) := by
  simp only [pop8, except_bind_eq_ok, memRead8_eq_ok]
  constructor
  · rintro ⟨v, ⟨pa, h1, h2, rfl⟩, h3⟩
    exact ⟨pa, h1, h2, by simpa only [except_ok_eq_ok] using h3⟩
  · rintro ⟨pa, h1, h2, rfl⟩
    exact ⟨_, ⟨pa, h1, h2, rfl⟩, rfl⟩

/-! ## Privilege, trap entry and trap return -/

theorem requireKernel_eq_ok {s : State} {u : Unit} : requireKernel s = .ok u ↔ s.pl = kernelPL := by
  unfold requireKernel
  by_cases h : s.pl = kernelPL <;> simp [h]

@[simp] theorem enterKernel_pl (s : State) : s.enterKernel.pl = kernelPL := by
  simp [State.pl]

/-- Everything a trap entry does: the target is evaluated in kernel mode, and the two pushes land
where the MMU translates ESP - 4 and ESP - 8 (R252, R289). -/
theorem trapEnter_eq_ok {target : State → Except Fault Word} {s t : State} :
    trapEnter target s = .ok t ↔
      ∃ v s2 s3, target s.enterKernel = .ok v
        ∧ push8 s.enterKernel s.enterKernel.flagsByte = .ok s2
        ∧ push32 s2 (s2.eip + 12#32) = .ok s3 ∧ t = s3.setEip v := by
  simp only [trapEnter, except_bind_eq_ok]
  constructor
  · rintro ⟨v, h1, s2, h2, s3, h3, h4⟩
    exact ⟨v, s2, s3, h1, h2, h3, by simpa only [except_ok_eq_ok] using h4⟩
  · rintro ⟨v, s2, s3, h1, h2, h3, rfl⟩
    exact ⟨v, h1, s2, h2, s3, h3, rfl⟩

/-- Everything a trap return does (R253, R290). -/
theorem trapReturn_eq_ok {s t : State} :
    trapReturn s = .ok t ↔
      s.pl = kernelPL ∧ ∃ ra s1 b s2, pop32 s = .ok (ra, s1) ∧ pop8 s1 = .ok (b, s2)
        ∧ t = (s2.setFlagsByte (returnFlags b)).setEip ra := by
  simp only [trapReturn, except_bind_eq_ok, requireKernel_eq_ok]
  constructor
  · rintro ⟨-, hk, ⟨ra, s1⟩, h1, ⟨b, s2⟩, h2, h3⟩
    exact ⟨hk, ra, s1, b, s2, h1, h2, by simpa only [except_ok_eq_ok] using h3⟩
  · rintro ⟨hk, ra, s1, b, s2, h1, h2, rfl⟩
    exact ⟨(), hk, (ra, s1), h1, (b, s2), h2, rfl⟩

/-! ## Operands -/

theorem requirePresent_eq_ok {op : Operand} {u : Unit} : requirePresent op = .ok u ↔ op.isNo = false := by
  unfold requirePresent
  cases op.isNo <;> simp

theorem requireTarget_eq_ok {op : Operand} {u : Unit} : requireTarget op = .ok u ↔ op.isImm = false := by
  unfold requireTarget
  cases op.isImm <;> simp

/-- A write to an operand that answers wrote a register it names, or the four bytes at the address it
names (R139). -/
theorem writeOp_eq_ok {s t : State} {op : Operand} {v : Word} :
    writeOp s op v = .ok t ↔
      (∃ c, op = .reg c ∧ regWrite s c v = .ok t)
        ∨ ((∀ c, op ≠ .reg c) ∧ ∃ a, operandAddr s op = .ok a ∧ memWrite32 s a v = .ok t) := by
  cases op with
  | no => simp [writeOp, operandAddr]
  | imm v => simp [writeOp, operandAddr]
  | reg c => simp [writeOp]
  | mem a => simp [writeOp, operandAddr]
  | regInd c => simp [writeOp, operandAddr, except_bind_eq_ok]

/-- Everything the two-operand ALU template does when it answers (R160). -/
theorem aluTwo_eq_ok {f : Bool → Word → Word → Except Fault AluResult} {op1 op2 : Operand} {s t : State} :
    aluTwo f op1 op2 s = .ok t ↔
      op1.isNo = false ∧ op2.isNo = false ∧ op2.isImm = false
        ∧ ∃ b a r u, srcVal s op1 = .ok b ∧ srcVal s op2 = .ok a ∧ f s.cf a b = .ok r
          ∧ writeOp s op2 r.value = .ok u ∧ t = (u.setArith r.flags).advance := by
  simp only [aluTwo, except_bind_eq_ok, requirePresent_eq_ok, requireTarget_eq_ok]
  constructor
  · rintro ⟨-, h1, -, h2, -, h3, b, hb, a, ha, r, hr, u, hu, ht⟩
    exact ⟨h1, h2, h3, b, a, r, u, hb, ha, hr, hu, by simpa only [except_ok_eq_ok] using ht⟩
  · rintro ⟨h1, h2, h3, b, a, r, u, hb, ha, hr, hu, rfl⟩
    exact ⟨(), h1, (), h2, (), h3, b, hb, a, ha, r, hr, u, hu, rfl⟩

/-- Everything the one-operand template does when it answers (R165, R194). -/
theorem aluOne_eq_ok {f : Word → AluResult} {op1 : Operand} {s t : State} :
    aluOne f op1 s = .ok t ↔
      op1.isNo = false ∧ op1.isImm = false
        ∧ ∃ x u, srcVal s op1 = .ok x ∧ writeOp s op1 (f x).value = .ok u
          ∧ t = (u.setArith (f x).flags).advance := by
  simp only [aluOne, except_bind_eq_ok, requirePresent_eq_ok, requireTarget_eq_ok]
  constructor
  · rintro ⟨-, h1, -, h3, x, hx, u, hu, ht⟩
    exact ⟨h1, h3, x, u, hx, hu, by simpa only [except_ok_eq_ok] using ht⟩
  · rintro ⟨h1, h3, x, u, hx, hu, rfl⟩
    exact ⟨(), h1, (), h3, x, hx, u, hu, rfl⟩

/-- Everything a conditional jump does when it answers (R232). -/
theorem condJump_eq_ok {c : Byte → Bool} {op1 : Operand} {s t : State} :
    condJump c op1 s = .ok t ↔
      op1.isNo = false
        ∧ ((c s.flagsByte = true ∧ ∃ a, addrVal s op1 = .ok a ∧ t = s.setEip a)
          ∨ (c s.flagsByte = false ∧ t = s.advance)) := by
  simp only [condJump, except_bind_eq_ok, requirePresent_eq_ok]
  cases h : c s.flagsByte with
  | false => simp [except_ok_eq_ok, -Except.ok.injEq]
  | true => simp [except_bind_eq_ok, except_ok_eq_ok, -Except.ok.injEq]

end Sys2Proof.Machine
end

