-- ==== Sys2Proof/Laws/Frame.lean ====
section
/-! SUPPORT. What each update of State leaves of the registers, the memory and the mode, in the terms the
statements use: frames of single updates, and how frames compose. -/

namespace Sys2Proof.Machine

/-! ## Composition -/

theorem sameRegsBut_refl (l : List Reg) (s : State) : SameRegsBut l s s := fun _ _ => rfl

theorem sameRegsBut_trans {l : List Reg} {s t u : State} (h : SameRegsBut l s t) (h' : SameRegsBut l t u) :
    SameRegsBut l s u := fun r hr => (h' r hr).trans (h r hr)

theorem sameRegsBut_mono {l l' : List Reg} {s t : State} (h : SameRegsBut l s t) (hl : ∀ r ∈ l, r ∈ l') :
    SameRegsBut l' s t := fun r hr => h r (fun hm => hr (hl r hm))

theorem sameMemory_trans {s t u : State} (h : SameMemory s t) (h' : SameMemory t u) : SameMemory s u :=
  fun x => (h' x).trans (h x)

/-! ## Registers under one update -/

theorem setEip_getReg (s : State) (v : Word) {r : Reg} (h : r ≠ .eip) : (s.setEip v).getReg r = s.getReg r := by
  cases r <;> first | exact absurd rfl h | rfl

theorem setEsp_getReg (s : State) (v : Word) {r : Reg} (h : r ≠ .esp) : (s.setEsp v).getReg r = s.getReg r := by
  cases r <;> first | exact absurd rfl h | rfl

theorem setEir_getReg (s : State) (v : Word) {r : Reg} (h : r ≠ .eir) : (s.setEir v).getReg r = s.getReg r := by
  cases r <;> first | exact absurd rfl h | rfl

theorem setFlagsByte_getReg (s : State) (b : Byte) {r : Reg} (h : r ≠ .eflags) :
    (s.setFlagsByte b).getReg r = s.getReg r := by
  cases r <;> first | exact absurd rfl h | rfl

@[simp] theorem setRam_getReg (s : State) (m : Memory) (r : Reg) : (s.setRam m).getReg r = s.getReg r := by
  cases r <;> rfl

theorem setArith_getReg (s : State) (f : ArithFlags) {r : Reg} (h : r ≠ .eflags) :
    (s.setArith f).getReg r = s.getReg r := setFlagsByte_getReg s _ h

theorem advance_getReg (s : State) {r : Reg} (h : r ≠ .eip) : s.advance.getReg r = s.getReg r :=
  setEip_getReg s _ h

theorem enterKernel_getReg (s : State) {r : Reg} (h : r ≠ .eflags) : s.enterKernel.getReg r = s.getReg r := by
  cases r <;> first | exact absurd rfl h | rfl

theorem fetched_getReg (s : State) (w : Word) {r : Reg} (h : r ≠ .eir) :
    (fetched s w).getReg r = s.getReg r := setEir_getReg s w h

/-! ## Writes of an operand -/

/-- Everything a write to a register operand changes is that register (R136). -/
theorem regWrite_frame {s t : State} {c v : Word} (h : regWrite s c v = .ok t) :
    TargetFrame [] (.reg c) s t := by
  obtain ⟨r, hr, -, -, rfl⟩ := regWrite_eq_ok.1 h
  refine ⟨fun r' _ hne => getReg_setReg_other s r r' v fun e => hne (by rw [targetReg, hr, e]),
    ⟨setReg_pg s r v, setReg_capacity s r v⟩, fun _ x => by rw [setReg_ram], ?_⟩
  intro a pa ha
  simp [operandAddr] at ha

/-- Everything a write to an operand changes is the register, or the four bytes, it names (R139). -/
theorem writeOp_frame {s t : State} {op : Operand} {v : Word} (h : writeOp s op v = .ok t) :
    TargetFrame [] op s t := by
  rcases writeOp_eq_ok.1 h with ⟨c, rfl, h1⟩ | ⟨hno, a, ha, h1⟩
  · exact regWrite_frame h1
  · obtain ⟨pa, hpa, -, rfl⟩ := memWrite32_eq_ok.1 h1
    refine ⟨fun r _ _ => setRam_getReg s _ r, ⟨rfl, rfl⟩, fun ⟨c, hc⟩ => absurd hc (hno c), ?_⟩
    intro a' pa' ha' hpa' x hx
    rw [ha] at ha'
    cases ha'
    rw [hpa] at hpa'
    cases hpa'
    exact read_writeWord_other _ _ hx

/-- A write to an operand other than EFLAGS leaves the flags byte (R30, R139). -/
theorem writeOp_flagsByte {s t : State} {op : Operand} {v : Word} (h : writeOp s op v = .ok t)
    (hop : targetReg op ≠ some .eflags) : t.flagsByte = s.flagsByte := by
  rcases writeOp_eq_ok.1 h with ⟨c, rfl, h1⟩ | ⟨-, a, -, h1⟩
  · obtain ⟨r, hr, -, -, rfl⟩ := regWrite_eq_ok.1 h1
    exact setReg_flagsByte s r v fun e => hop (by rw [targetReg, hr, e])
  · obtain ⟨pa, -, -, rfl⟩ := memWrite32_eq_ok.1 h1
    rfl

/-- Updates that leave the registers but some, PG, CAPACITY and the RAM extend a target frame. -/
theorem targetFrame_of_update {l : List Reg} {op : Operand} {s u t : State} (h : TargetFrame [] op s u)
    (hr : SameRegsBut l u t) (hram : t.ram = u.ram) (hm : SameMachine u t) : TargetFrame l op s t := by
  obtain ⟨h1, h2, h3, h4⟩ := h
  refine ⟨fun r hl hne => (hr r hl).trans (h1 r (by simp) hne), ⟨hm.1.trans h2.1, hm.2.trans h2.2⟩,
    fun hc x => by rw [hram]; exact h3 hc x, fun a pa ha hpa x hx => by rw [hram]; exact h4 a pa ha hpa x hx⟩

end Sys2Proof.Machine
end

