-- ==== Sys2Proof/Laws/PerInstr.lean ====
section
/-! SUPPORT. Families of facts about instructions as syntax, one lemma per constructor. -/

namespace Sys2Proof.Laws.OpcodeTableAgrees

/-- The encoder's type and opcode of an instruction, looked up in the decoder's tables, give the
instruction itself, or for JE and JNE the one whose words they share (R103, R104, R124). -/
def Statement (i : Instr) : Prop :=
  ∀ type opcode, i.head = some (type, opcode) →
    ∃ mk, opcodeTable type opcode = some mk ∧ mk i.slots.1 i.slots.2 = i.canonical

/-- The lookup of one constructor, read off the tables. -/
theorem of_table {i : Instr} {t : BitVec 3} {o : BitVec 7} {mk : Operand → Operand → Instr}
    (hh : i.head = some (t, o)) (hm : opcodeTable t o = some mk)
    (hc : mk i.slots.1 i.slots.2 = i.canonical) : Statement i := by
  intro t' o' h
  rw [hh] at h
  cases h
  exact ⟨mk, hm, hc⟩

theorem add (op1 op2 : Operand) : Statement (.add op1 op2) := of_table rfl rfl rfl
theorem adc (op1 op2 : Operand) : Statement (.adc op1 op2) := of_table rfl rfl rfl
theorem sub (op1 op2 : Operand) : Statement (.sub op1 op2) := of_table rfl rfl rfl
theorem sbb (op1 op2 : Operand) : Statement (.sbb op1 op2) := of_table rfl rfl rfl
theorem mul (op1 op2 : Operand) : Statement (.mul op1 op2) := of_table rfl rfl rfl
theorem div (op1 op2 : Operand) : Statement (.div op1 op2) := of_table rfl rfl rfl
theorem neg (op1 op2 : Operand) : Statement (.neg op1 op2) := of_table rfl rfl rfl
theorem cmp (op1 op2 : Operand) : Statement (.cmp op1 op2) := of_table rfl rfl rfl
theorem and (op1 op2 : Operand) : Statement (.and op1 op2) := of_table rfl rfl rfl
theorem or (op1 op2 : Operand) : Statement (.or op1 op2) := of_table rfl rfl rfl
theorem xor (op1 op2 : Operand) : Statement (.xor op1 op2) := of_table rfl rfl rfl
theorem not (op1 op2 : Operand) : Statement (.not op1 op2) := of_table rfl rfl rfl
theorem shl (op1 op2 : Operand) : Statement (.shl op1 op2) := of_table rfl rfl rfl
theorem shr (op1 op2 : Operand) : Statement (.shr op1 op2) := of_table rfl rfl rfl
theorem mov (op1 op2 : Operand) : Statement (.mov op1 op2) := of_table rfl rfl rfl
theorem nop (op1 op2 : Operand) : Statement (.nop op1 op2) := of_table rfl rfl rfl
theorem push (op1 op2 : Operand) : Statement (.push op1 op2) := of_table rfl rfl rfl
theorem pop (op1 op2 : Operand) : Statement (.pop op1 op2) := of_table rfl rfl rfl
theorem pushf (op1 op2 : Operand) : Statement (.pushf op1 op2) := of_table rfl rfl rfl
theorem popf (op1 op2 : Operand) : Statement (.popf op1 op2) := of_table rfl rfl rfl
theorem cli (op1 op2 : Operand) : Statement (.cli op1 op2) := of_table rfl rfl rfl
theorem sti (op1 op2 : Operand) : Statement (.sti op1 op2) := of_table rfl rfl rfl
theorem jmp (op1 op2 : Operand) : Statement (.jmp op1 op2) := of_table rfl rfl rfl
theorem jz (op1 op2 : Operand) : Statement (.jz op1 op2) := of_table rfl rfl rfl
theorem je (op1 op2 : Operand) : Statement (.je op1 op2) := of_table rfl rfl rfl
theorem jnz (op1 op2 : Operand) : Statement (.jnz op1 op2) := of_table rfl rfl rfl
theorem jne (op1 op2 : Operand) : Statement (.jne op1 op2) := of_table rfl rfl rfl
theorem jg (op1 op2 : Operand) : Statement (.jg op1 op2) := of_table rfl rfl rfl
theorem jge (op1 op2 : Operand) : Statement (.jge op1 op2) := of_table rfl rfl rfl
theorem jl (op1 op2 : Operand) : Statement (.jl op1 op2) := of_table rfl rfl rfl
theorem jle (op1 op2 : Operand) : Statement (.jle op1 op2) := of_table rfl rfl rfl
theorem call (op1 op2 : Operand) : Statement (.call op1 op2) := of_table rfl rfl rfl
theorem ret (op1 op2 : Operand) : Statement (.ret op1 op2) := of_table rfl rfl rfl
theorem int (op1 op2 : Operand) : Statement (.int op1 op2) := of_table rfl rfl rfl
theorem iret (op1 op2 : Operand) : Statement (.iret op1 op2) := of_table rfl rfl rfl
theorem sysenter (op1 op2 : Operand) : Statement (.sysenter op1 op2) := of_table rfl rfl rfl
theorem sysexit (op1 op2 : Operand) : Statement (.sysexit op1 op2) := of_table rfl rfl rfl
theorem haltWord : Statement .haltWord := by intro _ _ h; cases h

end Sys2Proof.Laws.OpcodeTableAgrees
end

