-- ==== Sys2Proof/Tests/Slice0.lean ====
section
/-! SUPPORT. Tests. Every expected value is the spec's own: words from 30 R127 and the rules of each
instruction, results from 95 (the vector's id stands beside each test). Then one witness for each
obligation that has hypotheses. -/

namespace Sys2Proof.Tests

open Sys2Proof Sys2Proof.Machine

/-! ## Well-formedness -/

/-- A missing slot is refused (R276). -/
theorem test_wf_present : Instr.presentOk (.add (.imm 1#32) .no) = false
    ∧ Instr.wellFormed (.add (.imm 1#32) .no) = false := by decide
/-- An immediate target is refused (R277). -/
theorem test_wf_target : Instr.targetOk (.mov (.reg 0#32) (.imm 5#32)) = false
    ∧ Instr.wellFormed (.mov (.reg 0#32) (.imm 5#32)) = false := by decide
/-- An operand in a slot the opcode does not use is refused (R112). -/
theorem test_wf_unused : Instr.unusedOk (.nop (.imm 5#32) .no) = false
    ∧ Instr.wellFormed (.nop (.imm 5#32) .no) = false := by decide
/-- A register code above 11 is refused (R35). -/
theorem test_wf_regs : Instr.regsOk (.push (.reg 12#32) .no) = false
    ∧ Instr.wellFormed (.push (.reg 12#32) .no) = false := by decide
/-- What the tables list is accepted: an immediate second operand of CMP included (R166). -/
theorem test_wf_accepts : Instr.wellFormed (.add (.imm 1#32) (.reg 11#32)) = true
    ∧ Instr.wellFormed (.cmp (.reg 0#32) (.imm 5#32)) = true
    ∧ Instr.wellFormed (.nop .no .no) = true ∧ Instr.wellFormed .haltWord = true := by decide

/-! ## Decoding: one word of every constructor, from the encodings of 41 to 45 and 95 part 3 -/

theorem decodes_add : decodeWords 0x980EA160#32 0x1#32 0x0#32 = .ok (.add (.imm 1#32) (.reg 0#32)) := by decide
theorem decodes_adc : decodeWords 0x981EA160#32 0x3#32 0x0#32 = .ok (.adc (.imm 3#32) (.reg 0#32)) := by decide
theorem decodes_sub : decodeWords 0x982EA160#32 0x1#32 0x0#32 = .ok (.sub (.imm 1#32) (.reg 0#32)) := by decide
theorem decodes_sbb : decodeWords 0x983EA160#32 0x3#32 0x0#32 = .ok (.sbb (.imm 3#32) (.reg 0#32)) := by decide
theorem decodes_mul : decodeWords 0x984EC160#32 0x1#32 0x0#32 = .ok (.mul (.reg 1#32) (.reg 0#32)) := by decide
theorem decodes_div : decodeWords 0x985EA160#32 0xFFFFFFFE#32 0x0#32 = .ok (.div (.imm 0xFFFFFFFE#32) (.reg 0#32)) := by decide
theorem decodes_neg : decodeWords 0x986EE000#32 0x100#32 0x0#32 = .ok (.neg (.mem 0x100#32) .no) := by decide
theorem decodes_cmp : decodeWords 0x987EC150#32 0x0#32 0x5#32 = .ok (.cmp (.reg 0#32) (.imm 5#32)) := by decide
theorem decodes_and : decodeWords 0x988EA160#32 0xFF00FF0#32 0x0#32 = .ok (.and (.imm 0x0FF00FF0#32) (.reg 0#32)) := by decide
theorem decodes_or : decodeWords 0x989EC160#32 0x1#32 0x0#32 = .ok (.or (.reg 1#32) (.reg 0#32)) := by decide
theorem decodes_xor : decodeWords 0x98AEC160#32 0x0#32 0x0#32 = .ok (.xor (.reg 0#32) (.reg 0#32)) := by decide
theorem decodes_not : decodeWords 0x98BFC000#32 0x1#32 0x0#32 = .ok (.not (.regInd 1#32) .no) := by decide
theorem decodes_shl : decodeWords 0x98CEC160#32 0x2#32 0x0#32 = .ok (.shl (.reg 2#32) (.reg 0#32)) := by decide
theorem decodes_shr : decodeWords 0x98DEA160#32 0x8#32 0x0#32 = .ok (.shr (.imm 8#32) (.reg 0#32)) := by decide
theorem decodes_mov : decodeWords 0x580EE1E0#32 0x100#32 0x2#32 = .ok (.mov (.mem 0x100#32) (.regInd 2#32)) := by decide
theorem decodes_nop : decodeWords 0x581C0000#32 0x0#32 0x0#32 = .ok (.nop .no .no) := by decide
theorem decodes_push : decodeWords 0x582EC000#32 0x4#32 0x0#32 = .ok (.push (.reg 4#32) .no) := by decide
theorem decodes_pop : decodeWords 0x583EE000#32 0x300#32 0x0#32 = .ok (.pop (.mem 0x300#32) .no) := by decide
theorem decodes_pushf : decodeWords 0x584C0000#32 0x0#32 0x0#32 = .ok (.pushf .no .no) := by decide
theorem decodes_popf : decodeWords 0x585C0000#32 0x0#32 0x0#32 = .ok (.popf .no .no) := by decide
theorem decodes_cli : decodeWords 0x586C0000#32 0x0#32 0x0#32 = .ok (.cli .no .no) := by decide
theorem decodes_sti : decodeWords 0x587C0000#32 0x0#32 0x0#32 = .ok (.sti .no .no) := by decide
theorem decodes_jmp : decodeWords 0x380EE000#32 0x78#32 0x0#32 = .ok (.jmp (.mem 0x78#32) .no) := by decide
theorem decodes_jz : decodeWords 0x381EE000#32 0x60#32 0x0#32 = .ok (.jz (.mem 0x60#32) .no) := by decide
theorem decodes_jnz : decodeWords 0x382EE000#32 0x60#32 0x0#32 = .ok (.jnz (.mem 0x60#32) .no) := by decide
theorem decodes_jg : decodeWords 0x383EE000#32 0xC#32 0x0#32 = .ok (.jg (.mem 0xC#32) .no) := by decide
theorem decodes_jge : decodeWords 0x384EE000#32 0xC#32 0x0#32 = .ok (.jge (.mem 0xC#32) .no) := by decide
theorem decodes_jl : decodeWords 0x385EE000#32 0xC#32 0x0#32 = .ok (.jl (.mem 0xC#32) .no) := by decide
theorem decodes_jle : decodeWords 0x386EE000#32 0xC#32 0x0#32 = .ok (.jle (.mem 0xC#32) .no) := by decide
theorem decodes_call : decodeWords 0x387EE000#32 0x48#32 0x0#32 = .ok (.call (.mem 0x48#32) .no) := by decide
theorem decodes_ret : decodeWords 0x388C0000#32 0x0#32 0x0#32 = .ok (.ret .no .no) := by decide
theorem decodes_int : decodeWords 0x389EA000#32 0x30#32 0x0#32 = .ok (.int (.imm 0x30#32) .no) := by decide
theorem decodes_iret : decodeWords 0x38AC0000#32 0x0#32 0x0#32 = .ok (.iret .no .no) := by decide
theorem decodes_sysenter : decodeWords 0x38BEE000#32 0x400#32 0x0#32 = .ok (.sysenter (.mem 0x400#32) .no) := by decide
theorem decodes_sysexit : decodeWords 0x38CC0000#32 0x0#32 0x0#32 = .ok (.sysexit .no .no) := by decide
theorem decodes_haltWord : decodeWords 0x0#32 0x0#32 0x0#32 = .ok (.haltWord) := by decide
/-- JE and JNE have the words of JZ and JNZ (R124). -/
theorem decodes_je : encode (.je (.mem 0x60#32) .no) = (0x381EE000#32, 0x60#32, 0#32)
    ∧ decodeWords 0x381EE000#32 0x60#32 0#32 = .ok (Instr.canonical (.je (.mem 0x60#32) .no)) := by decide
theorem decodes_jne : encode (.jne (.mem 0x60#32) .no) = (0x382EE000#32, 0x60#32, 0#32)
    ∧ decodeWords 0x382EE000#32 0x60#32 0#32 = .ok (Instr.canonical (.jne (.mem 0x60#32) .no)) := by decide
/-- The encoder writes the source's one pinned word (95 E1). -/
theorem test_encode_add : encode (.add (.imm 1#32) (.reg 0#32)) = (0x980EA160#32, 1#32, 0#32) := by decide
/-- Illegal words by name: type 000, R opcode 14, unknown operand type, mode 01 of a register (R107, R117). -/
theorem test_decode_rejects :
    decodeWords 1#32 0#32 0#32 = .error .unrecognizedInstruction
      ∧ decodeWords 0x98EEA160#32 0#32 0#32 = .error .unrecognizedInstruction
      ∧ decodeWords 0x580EA161#32 0#32 0#32 = .error .unrecognizedOperandType
      ∧ decodeWords 0x580DC160#32 0#32 0#32 = .error .unrecognizedAddressingMode
      ∧ decode [0x98#8, 0x0E#8, 0xA1#8] = .error .truncated := by decide
/-- The table's numbering: word 0 is the low 32 bits; above `nbits` all is zero. -/
theorem test_decodeTableWord :
    decodeTableWord 32 0x980EA160 = some (.add (.imm 0#32) (.reg 0#32))
      ∧ decodeTableWord 96 (0x980EA160 + 5 * 2 ^ 32 + 1 * 2 ^ 64) = some (.add (.imm 5#32) (.reg 1#32))
      ∧ decodeTableWord 32 0 = some .haltWord ∧ decodeTableWord 32 1 = none := by decide

/-! ## Single instructions -/

/-- The machine right after reset; the tests change a few fields of it. -/
def start : State := State.reset

/-- A DoubleWord put at a physical address. -/
def put (s : State) (pa : Nat) (v : Word) : State := s.setRam (s.ram.writeWord pa v)

/-- One cycle on an instruction put at EIP (real mode). -/
def run (s : State) (w0 w1 w2 : Word) : CycleOutcome × State :=
  cycle (put (put (put s s.eip.toNat w0) (s.eip.toNat + 4) w1) (s.eip.toNat + 8) w2)

/-- 95 A5. -/
theorem test_add : (let r := run (put { start with ebx := 0x200#32 } 0x200 0x40#32) 0x980EA1E0#32 0x2#32 0x1#32
    (r.1, r.2.ram.readWord 0x200, r.2.eflags, r.2.eip)) = (.next, 0x42#32, 0x02000000#32, 0xC#32) := by decide
/-- 95 A1. -/
theorem test_add_carry : (let r := run { start with eax := 0xFFFFFFFF#32 } 0x980EA160#32 0x1#32 0#32
    (r.1, r.2.eax, r.2.eflags, r.2.eip)) = (.next, 0#32, 0x2A000000#32, 0xC#32) := by decide
/-- 95 A9. -/
theorem test_adc : (let r := run { start with eax := 0x2#32, flagsByte := 0x08#8 } 0x981EA160#32 0x3#32 0#32
    (r.1, r.2.eax, r.2.eflags)) = (.next, 6#32, 0x02000000#32) := by decide
/-- 95 A14. -/
theorem test_sub : (let r := run { start with eax := 0x80000000#32 } 0x982EA160#32 0x1#32 0#32
    (r.1, r.2.eax, r.2.eflags)) = (.next, 0x7FFFFFFF#32, 0x0E000000#32) := by decide
/-- 95 A12: no carry. -/
theorem test_sub_zero : (let r := run { start with eax := 0x5#32 } 0x982EA160#32 0#32 0#32
    (r.1, r.2.eax, r.2.eflags)) = (.next, 5#32, 0x02000000#32) := by decide
/-- 95 A15: the carry is added. -/
theorem test_sbb : (let r := run { start with eax := 0x5#32, flagsByte := 0x08#8 } 0x983EA160#32 0x3#32 0#32
    (r.1, r.2.eax, r.2.eflags)) = (.next, 3#32, 0x0A000000#32) := by decide
/-- 95 A18. -/
theorem test_neg : (let r := run { start with eax := 0x80000000#32 } 0x986EC000#32 0#32 0#32
    (r.1, r.2.eax, r.2.eflags)) = (.next, 0x80000000#32, 0x16000000#32) := by decide
/-- 95 A24: 5 - 7. -/
theorem test_cmp : (let r := run { start with eax := 0x7#32 } 0x987EC150#32 0#32 0x5#32
    (r.1, r.2.eax, r.2.eflags, r.2.eip)) = (.next, 7#32, 0x10000000#32, 0xC#32) := by decide
/-- 95 A28. -/
theorem test_mul : (let r := run { start with eax := 0x3#32 } 0x984EA160#32 0xFFFFFFFB#32 0#32
    (r.1, r.2.eax, r.2.eflags)) = (.next, 0xFFFFFFF1#32, 0x10000000#32) := by decide
/-- 95 A32. -/
theorem test_div : (let r := run { start with eax := 0x7#32 } 0x985EA160#32 0xFFFFFFFE#32 0#32
    (r.1, r.2.eax, r.2.eflags)) = (.next, 0xFFFFFFFD#32, 0x10000000#32) := by decide
/-- 95 A33. -/
theorem test_div_zero : (let r := run { start with eax := 0x7#32, flagsByte := 0x20#8 } 0x985EC160#32 0x1#32 0#32
    (r.1, r.2.eax, r.2.eflags, r.2.eip)) = (.fault .divisionByZero, 7#32, 0x20000000#32, 0#32) := by decide
/-- 95 L1. -/
theorem test_and : (let r := run { start with eax := 0xF0F0F0F0#32, flagsByte := 0x0C#8 } 0x988EA160#32 0xFF00FF0#32 0#32
    (r.1, r.2.eax, r.2.eflags)) = (.next, 0x00F000F0#32, 0x02000000#32) := by decide
/-- 95 L2. -/
theorem test_or : (let r := run { start with eax := 0xF0F0F0F0#32, ebx := 0xFF00FF0#32 } 0x989EC160#32 0x1#32 0#32
    (r.1, r.2.eax, r.2.eflags)) = (.next, 0xFFF0FFF0#32, 0x12000000#32) := by decide
/-- 95 L3. -/
theorem test_xor : (let r := run { start with eax := 0xDEADBEEF#32 } 0x98AEC160#32 0#32 0#32
    (r.1, r.2.eax, r.2.eflags)) = (.next, 0#32, 0x22000000#32) := by decide
/-- 95 L7. -/
theorem test_not : (let r := run (put { start with ebx := 0x300#32 } 0x300 0xFFFF#32) 0x98BFC000#32 0x1#32 0#32
    (r.1, r.2.ram.readWord 0x300, r.2.eflags)) = (.next, 0xFFFF0000#32, 0x12000000#32) := by decide
/-- 95 L9. -/
theorem test_shl : (let r := run { start with eax := 0x1#32 } 0x98CEA160#32 0x1F#32 0#32
    (r.1, r.2.eax, r.2.eflags)) = (.next, 0x80000000#32, 0x12000000#32) := by decide
/-- 95 L11: all 32 bits of the count. -/
theorem test_shl_all : (let r := run { start with eax := 0xFFFFFFFF#32, ecx := 0xFFFFFFFF#32 } 0x98CEC160#32 0x2#32 0#32
    (r.1, r.2.eax, r.2.eflags)) = (.next, 0#32, 0x22000000#32) := by decide
/-- 95 L14. -/
theorem test_shr : (let r := run { start with eax := 0x80000001#32 } 0x98DEA160#32 0x1#32 0#32
    (r.1, r.2.eax, r.2.eflags)) = (.next, 0x40000000#32, 0x02000000#32) := by decide
/-- 95 M5: unaligned. -/
theorem test_mov : (let r := run { start with eax := 0xA1B2C3D4#32, ebx := 0x203#32 } 0x580EC1E0#32 0#32 0x1#32
    (r.1, r.2.ram.read 0x203, r.2.ram.read 0x206, r.2.eip)) = (.next, 0xA1#8, 0xD4#8, 0xC#32) := by decide
/-- 95 M10: the low 24 bits stay zero. -/
theorem test_mov_eflags : (let r := run start 0x580EA160#32 0xFFFFFFFF#32 0x6#32
    (r.1, r.2.eflags, r.2.eip)) = (.next, 0xFF000000#32, 0xC#32) := by decide
/-- 95 M20. -/
theorem test_nop : (let r := run { start with flagsByte := 0x10#8 } 0x581C0000#32 0#32 0#32
    (r.1, r.2.eflags, r.2.eip)) = (.next, 0x10000000#32, 0xC#32) := by decide
/-- 95 M23: the decremented value. -/
theorem test_push : (let r := run { start with esp := 0x1000#32 } 0x582EC000#32 0x4#32 0#32
    (r.1, r.2.esp, r.2.ram.readWord 0xFFC, r.2.eip)) = (.next, 0xFFC#32, 0xFFC#32, 0xC#32) := by decide
/-- 95 M24: ESP stays. -/
theorem test_push_low : (let r := run { start with eax := 0x1#32 } 0x582EC000#32 0#32 0#32
    (r.1, r.2.esp)) = (.fault (.addressOutOfRange 0xFFFFFFFC), 0#32) := by decide
/-- 95 M27: written, then plus 4. -/
theorem test_pop : (let r := run (put { start with esp := 0xFFC#32 } 0xFFC 0x500#32) 0x583EC000#32 0x4#32 0#32
    (r.1, r.2.esp, r.2.eip)) = (.next, 0x504#32, 0xC#32) := by decide
/-- 95 M30. -/
theorem test_pop_eip : (let r := run (put { start with esp := 0xFFC#32 } 0xFFC 0x60#32) 0x583EC000#32 0x3#32 0#32
    (r.1, r.2.esp, r.2.eip)) = (.next, 0x1000#32, 0x6C#32) := by decide
/-- 95 M31: one byte. -/
theorem test_pushf : (let r := run (put { start with esp := 0x1000#32, flagsByte := 0x23#8 } 0xFFC 0xFFFFFFFF#32) 0x584C0000#32 0#32 0#32
    (r.1, r.2.esp, r.2.ram.readWord 0xFFC)) = (.next, 0xFFC#32, 0x23FFFFFF#32) := by decide
/-- 95 M32. -/
theorem test_pushf_user : (let r := run { start with esp := 0x1000#32, flagsByte := 0xC0#8 } 0x584C0000#32 0#32 0#32
    (r.1, r.2.esp)) = (.fault .privilegeViolation, 0x1000#32) := by decide
/-- 95 M34. -/
theorem test_popf : (let r := run (put { start with esp := 0xFFC#32 } 0xFFC 0xE3000000#32) 0x585C0000#32 0#32 0#32
    (r.1, r.2.esp, r.2.eflags, r.2.eip)) = (.next, 0x1000#32, 0xE3000000#32, 0xC#32) := by decide
/-- 95 S1. -/
theorem test_cli : (let r := run { start with flagsByte := 0x21#8 } 0x586C0000#32 0#32 0#32
    (r.1, r.2.eflags, r.2.eip)) = (.next, 0x20000000#32, 0xC#32) := by decide
/-- 95 S3. -/
theorem test_sti : (let r := run start 0x587C0000#32 0#32 0#32
    (r.1, r.2.eflags, r.2.eip)) = (.next, 0x01000000#32, 0xC#32) := by decide
/-- 95 S4. -/
theorem test_sti_user : (let r := run { start with flagsByte := 0xC0#8 } 0x587C0000#32 0#32 0#32
    (r.1, r.2.eflags)) = (.fault .privilegeViolation, 0xC0000000#32) := by decide
/-- 95 J4. -/
theorem test_jmp : (let r := run (put { start with eax := 0x100#32 } 0x100 0x240#32) 0x380FC000#32 0#32 0#32
    (r.1, r.2.eip)) = (.next, 0x240#32) := by decide
/-- 95 J6. -/
theorem test_jz : (let r := run { start with flagsByte := 0x20#8 } 0x381EE000#32 0x60#32 0#32
    (r.1, r.2.eip)) = (.next, 0x60#32) := by decide
/-- 95 J14: the operand is not evaluated. -/
theorem test_jz_untaken : (let r := run { start with eax := 0xFFFFF0#32 } 0x381FC000#32 0#32 0#32
    (r.1, r.2.eip)) = (.next, 0xC#32) := by decide
/-- 95 J8. -/
theorem test_jnz : (let r := run start 0x382EE000#32 0x60#32 0#32
    (r.1, r.2.eip)) = (.next, 0x60#32) := by decide
/-- 95 J21: the target is read after the push. -/
theorem test_call : (let r := run { start with esp := 0x1000#32 } 0x387EC000#32 0x4#32 0#32
    (r.1, r.2.esp, r.2.ram.readWord 0xFFC, r.2.eip)) = (.next, 0xFFC#32, 0xC#32, 0xFFC#32) := by decide
/-- 95 J18. -/
theorem test_ret : (let r := run (put { start with esp := 0xFFC#32 } 0xFFC 0x30#32) 0x388C0000#32 0#32 0#32
    (r.1, r.2.esp, r.2.eip)) = (.next, 0x1000#32, 0x30#32) := by decide
/-- 95 S5. -/
theorem test_int : (let r := run { start with eip := 0x24#32, esp := 0x2000#32, itp := 0x300#32, flagsByte := 0xE3#8 } 0x389EA000#32 0x30#32 0#32
    (r.1, r.2.eflags, r.2.esp, r.2.ram.read 0x1FFC, r.2.ram.readWord 0x1FF8, r.2.eip)) = (.next, 0x22000000#32, 0x1FF8#32, 0x22#8, 0x30#32, 0x330#32) := by decide
/-- 95 S7: the second push faults, the first is undone. -/
theorem test_int_fault : (let r := run { start with eip := 0x24#32, esp := 0x4#32, itp := 0x300#32, flagsByte := 0xC1#8 } 0x389EA000#32 0x30#32 0#32
    (r.1, r.2.eflags, r.2.esp, r.2.ram.read 0)) = (.fault (.addressOutOfRange 0xFFFFFFFC), 0xC1000000#32, 4#32, 0#8) := by decide
/-- 95 S9. -/
theorem test_iret : (let r := run (put (put { start with esp := 0x1FF8#32 } 0x1FF8 0x30#32) 0x1FFC 0x22000000#32) 0x38AC0000#32 0#32 0#32
    (r.1, r.2.eip, r.2.esp, r.2.eflags)) = (.next, 0x30#32, 0x2000#32, 0xE3000000#32) := by decide
/-- 95 S12. -/
theorem test_sysenter : (let r := run { start with esp := 0x2000#32, flagsByte := 0xC1#8 } 0x38BEE000#32 0x400#32 0#32
    (r.1, r.2.eflags, r.2.esp, r.2.ram.readWord 0x1FF8, r.2.eip)) = (.next, 0#32, 0x1FF8#32, 0xC#32, 0x400#32) := by decide
/-- 95 S13. -/
theorem test_sysexit : (let r := run (put (put { start with esp := 0x1FF8#32 } 0x1FF8 0xC#32) 0x1FFC 0xC1000000#32) 0x38CC0000#32 0#32 0#32
    (r.1, r.2.eip, r.2.esp, r.2.eflags)) = (.next, 0xC#32, 0x2000#32, 0xC1000000#32) := by decide
/-- R132: only EIR changes, EIP stays. -/
theorem test_halt : (let r := run { start with eip := 0x40#32, eir := 0x7#32 } 0#32 0#32 0#32
    (r.1, r.2)) = (.halt, { start with eip := 0x40#32 }) := by decide
/-- 95 M17. -/
theorem test_register_code : (let r := run start 0x580EA160#32 0x5#32 0xC#32
    (r.1, r.2.eir)) = (.fault .unrecognizedOperandType, 0x580EA160#32) := by decide
/-- 95 M12. -/
theorem test_gptp_absent : (let r := run start 0x580EA160#32 0x1#32 0xA#32
    (r.1, r.2.gptp)) = (.fault .unsupportedOperandType, 0#32) := by decide
/-- 95 M13: GPTP while paging is on, the fetch through an executable page. -/
theorem test_gptp_present :
    (let r := run (put { start with pg := true, ptp := 0x4000#32 } 0x4000 0xA0000000#32) 0x580EA160#32 1#32 10#32
    (r.1, r.2.gptp, r.2.eip)) = (.next, 1#32, 0xC#32) := by decide

/-- The conditions of JG, JGE, JL, JLE, JE, JNE for every (ZF, SF, OF) (95, table of part 3): each list is
the eight rows of the table in its order, flags byte 0, 20, 10, 04, 14, 24, 30, 34. -/
def tableRows : List Byte := [0x00#8, 0x20#8, 0x10#8, 0x04#8, 0x14#8, 0x24#8, 0x30#8, 0x34#8]

/-- Does the jump, an instruction with target 0x60 run at address 0, go there? -/
def taken (i : Instr) (b : Byte) : Bool :=
  match exec i { start with flagsByte := b } with
  | .next t => t.eip == 0x60#32
  | _ => false

theorem test_jg : tableRows.map (taken (.jg (.mem 0x60#32) .no))
    = [true, false, false, false, true, false, false, false] := by decide
theorem test_jge : tableRows.map (taken (.jge (.mem 0x60#32) .no))
    = [true, true, false, false, true, false, false, true] := by decide
theorem test_jl : tableRows.map (taken (.jl (.mem 0x60#32) .no))
    = [false, false, true, true, false, true, true, false] := by decide
theorem test_jle : tableRows.map (taken (.jle (.mem 0x60#32) .no))
    = [false, false, false, false, false, true, true, false] := by decide
theorem test_je : tableRows.map (taken (.je (.mem 0x60#32) .no))
    = [false, true, false, false, false, true, true, true] := by decide
theorem test_jne : tableRows.map (taken (.jne (.mem 0x60#32) .no))
    = [true, false, true, true, true, false, false, false] := by decide

/-! ## The host's entry points, the bit-level ALU, the assembler -/

/-- A table word placed after reset is the first instruction the step runs; the halt word steps in place. -/
theorem test_withFetchWord :
    (match step (State.reset.withFetchWord 96 (0x580EA160 + 0x64 * 2 ^ 32)) with
      | .next t => (t.eax, t.eip)
      | _ => (0#32, 0#32)) = (0x64#32, 0xC#32)
      ∧ (match step (State.reset.withFetchWord 32 0) with
      | .next t => decide (t = State.reset)
      | _ => false) = true := by decide

/-- The bit-level constructions on rows of 95 part 2: add, multiply, divide. -/
theorem test_alu_bits :
    rippleAdd32 0x80000000#32 0x80000000#32 false = ⟨0#32, ⟨true, false, true, true, true⟩⟩
      ∧ boothMul 0x12345678#32 0x9ABCDEF0#32 = 0x242D2080#32 ∧ boothMul 0x80000000#32 0xFFFFFFFF#32 = 0x80000000#32
      ∧ restoringDiv 100 10 = 10 ∧ restoringDiv 5 7 = 0 := by decide +kernel

/-- The source's loop program (95 E7, P1): the label takes no slot and is the address 0x0C. -/
theorem test_assemble :
    assemble [.instr "MOV".toList ["$100".toList, "%eax".toList], .label "loop".toList,
        .instr "SUB".toList ["$1".toList, "%eax".toList], .instr "CMP".toList ["$0".toList, "%eax".toList],
        .instr "JG".toList ["loop".toList]]
      = .ok [0x580EA160#32, 0x64#32, 0#32, 0x982EA160#32, 1#32, 0#32, 0x987EA160#32, 0#32, 0#32,
        0x383EE000#32, 0xC#32, 0#32] := by decide

/-- `*@` and `*$` are rejected, naming the source line, a comment above it counted (R121, R126; log entry 30). -/
theorem test_assemble_rejects :
    assemble [.label "a".toList, .blank, .instr "MOV".toList ["*@5".toList, "%eax".toList]]
      = .error (.unrecognizedInstruction 3) := by decide

/-- `$-5` is FFFFFFFB (95 E2); the spellings of log entry 29: digits of either case, the sign before a prefix. -/
theorem test_literals :
    parseImm "-5".toList = some 0xFFFFFFFB#32 ∧ parseImm "0xaF".toList = some 0xAF#32
      ∧ parseImm "-0x10".toList = some 0xFFFFFFF0#32 ∧ parseImm "0X1".toList = none ∧ parseImm "0b".toList = none := by
  decide

/-- The numeric fault codes, in the order of the table (R271). -/
theorem test_fault_codes : [Fault.widthMismatch, .unrecognizedInstruction, .unrecognizedOperandType,
    .unrecognizedAddressingMode, .missingOperand, .unsupportedOperandType, .divisionByZero, .privilegeViolation,
    .registerNotWritableInUserMode, .pageFault 0#12 0#32, .addressOutOfRange 0].map Fault.code
      = [1, 2, 3, 4, 5, 6, 7, 8, 9, 10, 11] := by decide

/-- The state right after reset keeps the invariant, and every register is 0 (R45). -/
theorem test_reset : State.reset.wf = true ∧ State.reset.eflags = 0#32 ∧ State.reset.hasReg .gptp = false := by
  decide

/-! ## Witnesses: for each obligation with hypotheses, values that meet them together -/

/-- The next state of an outcome that has one. -/
def nextOf (o : Host.Outcome State Fault Refusal) : State :=
  match o with
  | .next t => t
  | _ => State.reset

/-- Does an outcome have a next state? -/
def runs (o : Host.Outcome State Fault Refusal) : Bool :=
  match o with
  | .next _ => true
  | _ => false

theorem next_of_runs {o : Host.Outcome State Fault Refusal} (h : runs o = true) : o = .next (nextOf o) := by
  cases o <;> first | rfl | cases h

/-- Kernel, real mode, a stack below 0x1000. -/
def kern : State := { start with eip := 0x100#32, esp := 0x1000#32, ebx := 0x200#32, eax := 7#32 }

/-- The same in user mode, with ZF and IF set. -/
def user : State := { kern with flagsByte := 0xE1#8 }

/-- User mode, paged: the table at 0x4000; page 0 in frame 1, page 1 in frame 2, both present, writable,
executable and open to user mode; page 2 not present; page 3 kernel-only. ESP points into page 1. -/
def paged : State :=
  put (put (put { user with pg := true, ptp := 0x4000#32, esp := 0x1800#32 } 0x4000 0xE0000001#32) 0x4004
    0xE0000002#32) 0x400C 0xF0000003#32

/-- `ADD $1, %eax` at EIP of a state in real mode. -/
def withAdd (s : State) : State := put (put s s.eip.toNat 0x980EA160#32) (s.eip.toNat + 4) 1#32

theorem witness_DecodeOfEncodeIsTheInstruction :
    Instr.sysexit .no .no ≠ .haltWord ∧ ∀ a b, Instr.sysexit .no .no ≠ .je a b ∧ Instr.sysexit .no .no ≠ .jne a b :=
  ⟨by decide, fun _ _ => ⟨nofun, nofun⟩⟩

theorem witness_EncodeOfDecodeIsTheWords :
    decodeWords 0x800EA160#32 5#32 1#32 = .ok (.add (.imm 5#32) (.reg 1#32))
      ∧ decodeWords 0x40100000#32 5#32 6#32 = .ok (.nop .no .no)
      ∧ Instr.add (.imm 5#32) (.reg 1#32) ≠ .haltWord ∧ Instr.nop .no .no ≠ .haltWord := by decide

theorem witness_DecodeIgnoresDelimitersButHaltIsZero :
    (0x980EA160#32 ≠ 0#32 ∧ 0x8002A160#32 ≠ 0#32 ∧ 0x980EA160#32 &&& 0xE7F3FFFF#32 = 0x8002A160#32 &&& 0xE7F3FFFF#32)
      ∧ decodeSlot1 0x581C0000#32 = .ok .no ∧ decodeSlot2 0x583EC000#32 = .ok .no
      ∧ Instr.nop .no .no ≠ .haltWord := by decide

theorem witness_DecoderRejectsExactlyTheIllegalWords :
    0x980EA161#32 ≠ 0#32 ∧ decodeOpcode 0x980EA161#32 = .ok Instr.add
      ∧ decodeSlot1 0x980EA161#32 = .ok .imm ∧ decodeSlot2 0x980EA161#32 = .error .unrecognizedOperandType :=
  ⟨by decide, rfl, by decide, by decide⟩

theorem witness_StepRunsTheDecodedInstruction :
    (let s := withAdd kern
    memFetch s s.eip = .ok 0x980EA160#32
      ∧ decodeWords 0x980EA160#32 1#32 0#32 = .ok (.add (.imm 1#32) (.reg 0#32))
      ∧ memFetch s (s.eip + 4#32) = .ok 1#32 ∧ memFetch s (s.eip + 8#32) = .ok 0#32) := by decide

/-- EIP at the last word of the RAM (the operand words lie outside), then the illegal words of each kind. -/
theorem witness_StepReportsTheFirstFetchOrDecodeFault :
    memFetch { start with eip := 0xFFFD#32 } 0xFFFD#32 = .error (.addressOutOfRange 0x10000)
      ∧ memFetch (put start 0 1#32) 0#32 = .ok 1#32
      ∧ (memFetch (put start 0 0x981DA160#32) 0#32 = .ok 0x981DA160#32
        ∧ decodeSlot1 0x981DA160#32 = .error .unrecognizedAddressingMode)
      ∧ (let s := put { start with eip := 0xFFFC#32 } 0xFFFC 0x980EA160#32
        memFetch s s.eip = .ok 0x980EA160#32 ∧ decodeSlot1 0x980EA160#32 = .ok .imm
          ∧ memFetch s (s.eip + 4#32) = .error (.addressOutOfRange 0x10000))
      ∧ (let s := put start 0 0x980EA161#32
        memFetch s s.eip = .ok 0x980EA161#32 ∧ memFetch s (s.eip + 4#32) = .ok 0#32
          ∧ decodeSlot2 0x980EA161#32 = .error .unrecognizedOperandType)
      ∧ (let s := put { start with eip := 0xFFF8#32 } 0xFFF8 0x980EA160#32
        memFetch s s.eip = .ok 0x980EA160#32 ∧ memFetch s (s.eip + 4#32) = .ok 0#32
          ∧ decodeSlot2 0x980EA160#32 = .ok .reg
          ∧ memFetch s (s.eip + 8#32) = .error (.addressOutOfRange 0x10000)) := by decide

/-- The opcode of word 1 is not assigned; those of the other words above are, so that the later clauses apply. -/
theorem witness_StepReportsTheFirstFetchOrDecodeFault_opcodes :
    decodeOpcode 1#32 = .error .unrecognizedInstruction
      ∧ decodeOpcode 0x981DA160#32 = .ok Instr.adc ∧ decodeOpcode 0x980EA160#32 = .ok Instr.add
      ∧ decodeOpcode 0x980EA161#32 = .ok Instr.add := ⟨rfl, rfl, rfl, rfl⟩

theorem witness_FetchWritesEirUnlessItFaults :
    fetchWord0 { start with eip := 0xFFFD#32 } = .error (.addressOutOfRange 0x10000)
      ∧ fetchWord0 (withAdd kern) = .ok 0x980EA160#32
      ∧ fetchInstr (fetched (withAdd kern) 0x980EA160#32) 0x980EA160#32 = .ok (.add (.imm 1#32) (.reg 0#32))
      ∧ (fetchWord0 (put start 0 1#32) = .ok 1#32
        ∧ (cycle (put start 0 1#32)).1 = .fault .unrecognizedInstruction) := by decide

theorem witness_HaltWordChangesOnlyEir : memFetch kern kern.eip = .ok 0#32 := by decide

theorem witness_FaultingCycleChangesOnlyEir :
    (cycle { start with eip := 0xFFFD#32 }).1 = .fault (.addressOutOfRange 0x10000)
      ∧ (cycle (put start 0 1#32)).1 = .fault .unrecognizedInstruction
      ∧ (match step (put start 0 1#32) with
        | .fault f => decide (f = .unrecognizedInstruction)
        | _ => false) = true := by decide

theorem witness_RamByteReadsWhatWasLastWritten :
    (1 : Nat) ≠ 0 ∧ (0, 5#8) ∈ Memory.write [(0, 5#8), (1, 6#8)] 1 0#8 := by decide

/-- The last word of the RAM. -/
theorem witness_RamWordIsBigEndian :
    physWrite32 start 0xFFFC 0x01020304#32 = .ok (put start 0xFFFC 0x01020304#32) := by decide

theorem witness_RamPortBoundsAreInclusive :
    0xFFFF ≤ start.capacity.toNat ∧ start.capacity.toNat < 0x10000 ∧ 0xFFFC + 3 ≤ start.capacity.toNat
      ∧ start.capacity.toNat < 0xFFFD + 3 := by decide

/-- Real mode; an entry out of the RAM by one byte; an entry not present; one present, the last in the RAM. -/
theorem witness_TranslationWalksOneLinearTable :
    kern.pg = false
      ∧ (let s := { paged with ptp := 0xFFFD#32 }
        s.pg = true ∧ s.capacity.toNat < s.ptp.toNat + (0xFFF#32).toNat / 4096 * 4 + 3)
      ∧ (let s := { paged with ptp := 0xFFFC#32 }
        s.pg = true ∧ s.ptp.toNat + (0xFFF#32).toNat / 4096 * 4 + 3 ≤ s.capacity.toNat
          ∧ (s.ram.readWord (s.ptp.toNat + (0xFFF#32).toNat / 4096 * 4)).toNat < 2 ^ 31)
      ∧ (paged.pg = true ∧ paged.ptp.toNat + (0x1000#32).toNat / 4096 * 4 + 3 ≤ paged.capacity.toNat
        ∧ 2 ^ 31 ≤ (paged.ram.readWord (paged.ptp.toNat + (0x1000#32).toNat / 4096 * 4)).toNat) := by decide

/-- A page that may be read and written, one that may not; page 2 is not present, the frame supplied is 3. -/
theorem witness_MemoryAccessAndPageFaultRetry :
    mmuTranslate paged 0x1FFC#32 .read = .ok 0x2FFC ∧ mmuTranslate paged 0x1FFC#32 .write = .ok 0x2FFC
      ∧ mmuTranslate paged 0x3000#32 .read = .error .privilegeViolation
      ∧ mmuTranslate paged 0x3000#32 .write = .error .privilegeViolation
      ∧ mmuTranslate paged 0x1FFC#32 .execute = .ok 0x2FFC
      ∧ mmuTranslate paged 0x3000#32 .execute = .error .privilegeViolation
      ∧ memRead32 paged 0x3000#32 = .error .privilegeViolation
      ∧ memWrite8 paged 0x3000#32 5#8 = .error .privilegeViolation ∧
    paged.pg = true ∧ pteAddr paged 0x2FFC#32 + 3 ≤ paged.capacity.toNat
      ∧ ptePresent (paged.ram.readWord (pteAddr paged 0x2FFC#32)) = false
      ∧ ptePresent 0xC0000003#32 = true ∧ permitted 0xC0000003#32 .write paged.pl = true
      ∧ (ptePfn 0xC0000003#32 ++ pageOffset 0x2FFC#32).toNat + 3 ≤ paged.capacity.toNat
      ∧ (ptePfn 0xC0000003#32 ++ pageOffset 0x2FFC#32).toNat + 4 ≤ pteAddr paged 0x2FFC#32 := by decide

theorem witness_StoreIsSeenByTheNextFetch :
    memWrite32 kern 0x10C#32 0x581C0000#32 = .ok (put kern 0x10C 0x581C0000#32)
      ∧ mmuTranslate (put kern 0x10C 0x581C0000#32) 0x10C#32 .execute = mmuTranslate kern 0x10C#32 .write
      ∧ memWrite32 paged 0x10C#32 0x581C0000#32 = .ok (put paged 0x110C 0x581C0000#32)
      ∧ mmuTranslate (put paged 0x110C 0x581C0000#32) 0x10C#32 .execute = mmuTranslate paged 0x10C#32 .write := by
  decide

theorem witness_RegisterReadByCode : paged.pg = true ∧ kern.pg = false ∧ 11 < (12#32).toNat
    ∧ regRead user 6#32 = .ok 0xE1000000#32
    ∧ regRead (user.setArith ⟨false, true, false, true, false⟩) 6#32 = .ok 0xD5000000#32 := by decide

theorem witness_RegisterWriteByCode :
    (kern.hasReg .vmptr = true ∧ kern.pl = kernelPL) ∧ (user.hasReg .esp = true ∧ Reg.esp ∈ [Reg.eax, .ebx, .ecx, .esp])
      ∧ (user.hasReg .eip = true ∧ user.pl ≠ kernelPL ∧ Reg.eip ∉ [Reg.eax, .ebx, .ecx, .esp])
      ∧ kern.hasReg .gptp = false ∧ 11 < (12#32).toNat := by decide

theorem witness_OperandValueOfEveryForm :
    regRead kern 11#32 = .ok 0#32 ∧ regRead kern 12#32 = .error .unrecognizedOperandType := by decide

theorem witness_OperandWriteOfEveryForm :
    writeOp user (.reg 0#32) 5#32 = .ok { user with eax := 5#32 }
      ∧ writeOp kern (.reg 6#32) 0xFF000000#32 = .ok { kern with flagsByte := 0xFF#8 }
      ∧ writeOp user (.regInd 1#32) 5#32 = .ok (put user 0x200 5#32)
      ∧ operandAddr user (.regInd 1#32) = .ok 0x200#32 ∧ mmuTranslate user 0x200#32 .write = .ok 0x200
      ∧ targetReg (.reg 0#32) = some .eax ∧ targetReg (.reg 6#32) = some .eflags := by decide

theorem witness_AdderLawsAndNumberReadings :
    (-2 ^ 31 : Int) ≤ -2 ^ 31 ∧ (-2 ^ 31 : Int) < 2 ^ 31 ∧ 2 ^ 32 - 1 < 2 ^ 32 := by decide

theorem witness_RippleCarryAdderIsAddition : 31 < 32 := by decide

theorem witness_RestoringDividerGivesTheQuotient : 2 ^ 32 - 1 < 2 ^ 32 ∧ 0 < 1 ∧ 0x80000000#32 ≠ 0#32 := by decide

theorem witness_BitwiseOperationsAndTheirFlags : 31 < 32 ∧ aluNot 5#32 ∈ [aluNot 5#32] := by decide

/-- A register target in user mode, and a memory target through a register at the last word of the RAM. -/
theorem witness_TargetWritable :
    TargetWritable user (.reg 0#32)
      ∧ TargetWritable { user with ebx := 0xFFFC#32 } (.regInd 1#32) ∧ TargetWritable paged (.mem 0x1000#32) :=
  ⟨⟨.eax, by decide, by decide, .inr (by decide)⟩, ⟨0xFFFC#32, by decide, 0xFFFC, by decide, by decide⟩,
    ⟨0x2000, by decide, by decide⟩⟩

/-- ADD, ADC, SUB, SBB, MUL, DIV, AND, OR, XOR, SHL, SHR: source `$5`, target EAX; NEG and NOT: target EAX;
CMP: `$5` against an immediate; MOV: `$5` to EAX. The source 0 is DIV's fault. -/
theorem witness_AddAndAdcResult : srcVal user (.imm 5#32) = .ok 5#32 ∧ srcVal user (.reg 0#32) = .ok 7#32
    ∧ TargetWritable user (.reg 0#32) :=
  ⟨by decide, by decide, witness_TargetWritable.1⟩
theorem witness_SubAndSbbResult : srcVal user (.imm 5#32) = .ok 5#32 ∧ srcVal user (.reg 0#32) = .ok 7#32
    ∧ TargetWritable user (.reg 0#32) := witness_AddAndAdcResult
theorem witness_NegAndCmpResult : (srcVal user (.reg 0#32) = .ok 7#32 ∧ TargetWritable user (.reg 0#32))
    ∧ srcVal user (.reg 0#32) = .ok 7#32 ∧ srcVal user (.imm 5#32) = .ok 5#32 :=
  ⟨⟨by decide, witness_TargetWritable.1⟩, by decide, by decide⟩
theorem witness_MulResult : srcVal user (.imm 5#32) = .ok 5#32 ∧ srcVal user (.reg 0#32) = .ok 7#32
    ∧ TargetWritable user (.reg 0#32) := witness_AddAndAdcResult
theorem witness_DivResult : srcVal user (.reg 0#32) = .ok 7#32
    ∧ (srcVal user (.imm 1#32) = .ok 1#32 ∧ 1#32 ≠ 0#32 ∧ TargetWritable user (.reg 0#32))
    ∧ (srcVal user (.imm 0#32) = .ok 0#32 ∧ Operand.isImm (.reg 0#32) = false) :=
  ⟨by decide, ⟨by decide, by decide, witness_TargetWritable.1⟩, by decide, by decide⟩
theorem witness_LogicResult : srcVal user (.imm 5#32) = .ok 5#32 ∧ srcVal user (.reg 0#32) = .ok 7#32
    ∧ TargetWritable user (.reg 0#32) := witness_AddAndAdcResult
/-- Counts on both sides of the limit. -/
theorem witness_ShiftResult : srcVal user (.imm 31#32) = .ok 31#32 ∧ srcVal user (.imm 32#32) = .ok 32#32
    ∧ srcVal user (.reg 0#32) = .ok 7#32 ∧ TargetWritable user (.reg 0#32) ∧ (31#32).toNat < 32
    ∧ 32 ≤ (32#32).toNat :=
  ⟨by decide, by decide, by decide, witness_TargetWritable.1, by decide, by decide⟩

theorem witness_AluFrame :
    Instr.xor (.imm 5#32) (.reg 0#32) ∈ [Instr.add (.imm 5#32) (.reg 0#32), .xor (.imm 5#32) (.reg 0#32)]
      ∧ runs (exec (.add (.imm 5#32) (.reg 0#32)) user) = true
      ∧ runs (exec (.shr (.imm 5#32) (.mem 0x300#32)) user) = true
      ∧ targetReg (.reg 0#32) ≠ some .eflags ∧ operandAddr user (.mem 0x300#32) = .ok 0x300#32
      ∧ mmuTranslate user 0x300#32 .write = .ok 0x300 := by decide

theorem witness_NegNotCmpFrame :
    runs (exec (.neg (.reg 0#32) .no) user) = true ∧ runs (exec (.not (.mem 0x300#32) .no) user) = true
      ∧ runs (exec (.cmp (.reg 0#32) (.imm 5#32)) user) = true := by decide

theorem witness_MovAndNopResultAndFrame :
    srcVal user (.imm 5#32) = .ok 5#32 ∧ TargetWritable user (.reg 0#32)
      ∧ runs (exec (.mov (.imm 5#32) (.reg 0#32)) user) = true :=
  ⟨by decide, witness_TargetWritable.1, by decide⟩

/-- In paged user mode too; and the lowest address a push can reach. -/
theorem witness_PushResult :
    (srcVal (paged.setEsp (paged.esp - 4#32)) (.reg 4#32) = .ok 0x17FC#32
        ∧ mmuTranslate paged (paged.esp - 4#32) .write = .ok 0x27FC ∧ 0x27FC + 3 ≤ paged.capacity.toNat)
      ∧ (let s := { user with esp := 4#32 }
        srcVal (s.setEsp (s.esp - 4#32)) (.imm 5#32) = .ok 5#32
          ∧ mmuTranslate s (s.esp - 4#32) .write = .ok 0 ∧ 0 + 3 ≤ s.capacity.toNat) := by decide

theorem witness_PopResult : memRead32 user user.esp = .ok 0#32 ∧ TargetWritable user (.reg 0#32) :=
  ⟨by decide, witness_TargetWritable.1⟩

theorem witness_PushfAndPopfResult :
    kern.pl = kernelPL ∧ mmuTranslate kern (kern.esp - 4#32) .write = .ok 0xFFC ∧ 0xFFC ≤ kern.capacity.toNat
      ∧ mmuTranslate kern kern.esp .read = .ok 0x1000 ∧ 0x1000 ≤ kern.capacity.toNat := by decide

theorem witness_StackFrame :
    runs (exec (.push (.reg 0#32) .no) paged) = true ∧ runs (exec (.call (.mem 0x48#32) .no) user) = true
      ∧ mmuTranslate paged (paged.esp - 4#32) .write = .ok 0x27FC
      ∧ runs (exec (.pushf .no .no) kern) = true ∧ runs (exec (.pop (.reg 0#32) .no) user) = true
      ∧ runs (exec (.popf .no .no) kern) = true ∧ runs (exec (.ret .no .no) user) = true := by decide

/-- Real mode, and paged mode with the stack page's entry away from the stack. -/
theorem witness_PopUndoesPushAndRetUndoesCall :
    TargetWritable user (.reg 0#32) ∧ targetReg (.reg 0#32) ≠ some .esp ∧ targetReg (.reg 0#32) ≠ some .eip
      ∧ runs (exec (.push (.reg 0#32) .no) user) = true ∧ user.pg = false
      ∧ runs (exec (.call (.mem 0x48#32) .no) paged) = true
      ∧ (nextOf (exec (.call (.mem 0x48#32) .no) paged)).ram.readWord (pteAddr paged (paged.esp - 4#32))
        = paged.ram.readWord (pteAddr paged (paged.esp - 4#32)) :=
  ⟨witness_TargetWritable.1, by decide, by decide, by decide, by decide, by decide, by decide⟩

/-- Taken with a readable target, taken with a register that does not exist, and not taken. -/
theorem witness_JumpsTakenExactlyOnTheirCondition :
    addrVal user (.mem 0x60#32) = .ok 0x60#32 ∧ flagZF user.flagsByte = true
      ∧ addrVal user (.reg 12#32) = .error .unrecognizedOperandType
      ∧ (!flagZF user.flagsByte) = false ∧ Operand.mem 0x60#32 ≠ .no
      ∧ (Instr.jz (.mem 0x60#32) .no, true) ∈ [(Instr.jz (.mem 0x60#32) .no, true)] := by decide

theorem witness_JumpsAfterCompareDecideSignedOrder :
    srcVal user (.imm 0x80000000#32) = .ok 0x80000000#32 ∧ srcVal user (.imm 0x7FFFFFFF#32) = .ok 0x7FFFFFFF#32
      ∧ runs (exec (.cmp (.imm 0x7FFFFFFF#32) (.imm 0x80000000#32)) user) = true
      ∧ 0x7FFFFFFF#32 ≠ 0x80000000#32 := by decide

theorem witness_CallAndRetResult :
    mmuTranslate user (user.esp - 4#32) .write = .ok 0xFFC ∧ 0xFFC + 3 ≤ user.capacity.toNat
      ∧ addrVal ((user.setEsp (user.esp - 4#32)).setRam (user.ram.writeWord 0xFFC (user.eip + 12#32))) (.reg 4#32)
        = .ok 0xFFC#32
      ∧ memRead32 user user.esp = .ok 0#32 := by decide

theorem witness_CliAndStiResult :
    kern.pl = kernelPL ∧ (Instr.sti .no .no, true) ∈ [(Instr.cli .no .no, false), (Instr.sti .no .no, true)] := by
  decide

theorem witness_KernelOnlyInstructionsFaultElsewhere :
    user.pl ≠ kernelPL ∧ ({ user with flagsByte := 0x40#8 } : State).pl ≠ kernelPL
      ∧ Instr.sysexit .no .no ∈ [Instr.cli .no .no, .sti .no .no, .pushf .no .no, .popf .no .no, .iret .no .no,
        .sysexit .no .no] := by decide

/-- From user mode, the two pushes at the bottom of the RAM, at 4 and 0. -/
theorem witness_TrapEntrySavesAndTransfers :
    (let s := { user with esp := 8#32 }
    let k := s.enterKernel
    let m := (k.setEsp (s.esp - 4#32)).setRam (s.ram.write 4 k.flagsByte)
    mmuTranslate k (s.esp - 4#32) .write = .ok 4 ∧ 4 ≤ s.capacity.toNat
      ∧ mmuTranslate m (s.esp - 8#32) .write = .ok 0 ∧ 0 + 3 ≤ s.capacity.toNat
      ∧ (srcVal k (.imm 0x30#32)).map (s.itp + ·) = .ok 0x30#32 ∧ addrVal k (.mem 0x400#32) = .ok 0x400#32) := by
  decide

theorem witness_TrapReturnRestoresAndLeavesKernel :
    kern.pl = kernelPL ∧ memRead32 kern kern.esp = .ok 0#32 ∧ memRead8 kern (kern.esp + 4#32) = .ok 0#8 := by decide

/-- Real mode, and paged mode with the stack page's entry away from the stack. -/
theorem witness_InterruptThenReturn :
    (user.pg = false ∧ runs (exec (.int (.imm 0x30#32) .no) user) = true
        ∧ runs (exec (.sysenter (.mem 0x400#32) .no) user) = true)
      ∧ (let t := nextOf (exec (.int (.imm 0x30#32) .no) paged)
        runs (exec (.int (.imm 0x30#32) .no) paged) = true ∧ paged.pg = true
          ∧ mmuTranslate paged.enterKernel (paged.esp - 4#32) .write = .ok 0x27FC
          ∧ t.ram.readWord (pteAddr paged (paged.esp - 4#32)) = paged.ram.readWord (pteAddr paged (paged.esp - 4#32))
          ∧ t.ram.readWord (pteAddr paged (paged.esp - 8#32))
            = (paged.ram.write 0x27FC paged.enterKernel.flagsByte).readWord (pteAddr paged (paged.esp - 8#32))) := by
  decide

theorem witness_OperandChecksComeFirst :
    Instr.presentOk (.mov (.imm 1#32) (.imm 2#32)) = true ∧ Instr.targetOk (.mov (.imm 1#32) (.imm 2#32)) = false := by
  decide

theorem witness_StepKeepsTheStateInvariant :
    (withAdd kern).wf = true ∧ runs (step (withAdd kern)) = true ∧ paged.wf = true := by decide

theorem witness_EveryReachableStateIsWellFormed : paged.wf = true ∧ Reachable 0xFFFF#32 (State.resetWith 0xFFFF#32) :=
  ⟨by decide, .reset⟩

/-- INT from user mode; IRET, POPF and a write of EFLAGS from kernel mode. -/
theorem witness_PrivilegeLevelChangesOnlyByItsInstructions :
    (runs (exec (.int (.imm 0x30#32) .no) user) = true ∧ user.pl ≠ kernelPL
        ∧ (nextOf (exec (.int (.imm 0x30#32) .no) user)).pl ≠ user.pl)
      ∧ (runs (exec (.iret .no .no) kern) = true ∧ kern.pl = kernelPL
        ∧ (nextOf (exec (.iret .no .no) kern)).pl ≠ kern.pl)
      ∧ (runs (exec (.popf .no .no) (put kern 0x1000 0x40000000#32)) = true
        ∧ (nextOf (exec (.popf .no .no) (put kern 0x1000 0x40000000#32))).pl ≠ kern.pl)
      ∧ (runs (exec (.mov (.imm 0x80000000#32) (.reg 6#32)) kern) = true
        ∧ (nextOf (exec (.mov (.imm 0x80000000#32) (.reg 6#32)) kern)).pl ≠ kern.pl) := by decide

theorem witness_UserStepLeavesPrivilegedState :
    (withAdd user).pl ≠ kernelPL ∧ runs (step (withAdd user)) = true := by decide

/-- A user-mode PUSH in paged mode, fetched through page 0, that changes a byte of the stack page. -/
theorem witness_UserStepWritesOnlyUserWritablePages :
    (let s := put paged 0x1100 0x582EC000#32
    s.pg = true ∧ s.pl ≠ kernelPL ∧ runs (step s) = true ∧ (nextOf (step s)).pl ≠ kernelPL
      ∧ (nextOf (step s)).ram.read 0x27FF ≠ s.ram.read 0x27FF) := by decide

theorem witness_HostModeSwitches :
    (HostOp.enterUserMode, 0b11#2) ∈ [(HostOp.enterKernelMode, 0b00#2), (.enterUserMode, 0b11#2)] ∧ 5 < 6 := by decide

theorem witness_HostPortOperations :
    paged.hasReg .gptp = true ∧ kern.hasReg .vmptr = true ∧ kern.pg = false ∧ 0xFFFF ≤ kern.capacity.toNat := by decide

theorem witness_AssemblerEmitsThreeWordsPerInstruction :
    assemble [.blank, .label "a".toList, .instr "JMP".toList ["a".toList]] = .ok [0x380EE000#32, 0#32, 0#32]
      ∧ asmInstr "NOP".toList [] = some (.nop .no .no)
      ∧ AsmLine.label "a".toList ∉ [AsmLine.blank, .instr "NOP".toList []]
      ∧ "a".toList.head? ∉ [some '$', some '@', some '%', some '*'] := by decide

end Sys2Proof.Tests
end

section
/-! The RAM byte by byte (20 R61, R62): what reset holds, and how the write of a zero byte stands in the list. -/

namespace Sys2Proof.Machine

/-- The reset RAM lists no byte (R61). -/
theorem read_reset (x : Nat) : State.reset.ram.read x = 0x00#8 := read_nil x

/-- Writing what an unlisted byte reads as is erasing the entry (R62). -/
theorem write_zero (m : Memory) (x : Nat) : m.write x 0x00#8 = Memory.erase m x := if_pos rfl

theorem ne_of_mem_erase {m : Memory} {x : Nat} {c : Host.Cell} (h : c ∈ Memory.erase m x) : c.1 ≠ x :=
  of_decide_eq_true (List.all_eq_true.mp (erase_ne m x) c h)

/-- Writing a zero byte leaves no entry at its address (R62). -/
theorem ne_of_mem_write_zero {m : Memory} {x : Nat} {c : Host.Cell} (h : c ∈ m.write x 0x00#8) :
    c.1 ≠ x := by
  rw [write_zero] at h
  exact ne_of_mem_erase h

/-- Settles O11: the four parts are the reset RAM, the read after a write, the frame of a write and the
removal of a zero byte. -/
theorem ramByteReadsWhatWasLastWritten : Obligations.RamByteReadsWhatWasLastWritten := by
  refine ⟨read_reset, ?self, ?frame, ?zero⟩
  case self => exact read_write_self
  case frame =>
    intro m x y b hne
    exact read_write_other m b hne
  case zero =>
    intro m x c hc
    exact ne_of_mem_write_zero hc

end Sys2Proof.Machine
end

section
/-! The fetch of word 0 (40 R131): which faults it has, and what a cycle leaves in EIR. -/

namespace Sys2Proof.Machine

/-- The faults a fetch can have (R131). -/
def IsFetchFault (f : Fault) : Prop :=
  f = .privilegeViolation ∨ (∃ a, f = .addressOutOfRange a) ∨ ∃ flags a, f = .pageFault flags a

/-- A bounds check raises AddressOutOfRange and nothing else (R65). -/
theorem addressOutOfRange_of_boundsCheck {s : State} {pa n : Nat} {f : Fault} (h : boundsCheck s pa n = .error f) :
    ∃ a, f = .addressOutOfRange a := by
  unfold boundsCheck at h
  split_ifs at h <;> cases h <;> exact ⟨_, rfl⟩

theorem addressOutOfRange_of_physRead32 {s : State} {pa : Nat} {f : Fault} (h : physRead32 s pa = .error f) :
    ∃ a, f = .addressOutOfRange a := by
  obtain hb | ⟨u, -, hu⟩ := except_bind_eq_error.1 h
  · exact addressOutOfRange_of_boundsCheck hb
  · cases hu

/-- The walk faults on the read of the entry, on an absent page or on a page that is not permitted
(R79). -/
theorem isFetchFault_of_translate {s : State} {va : Word} {k : Access} {f : Fault}
    (h : mmuTranslate s va k = .error f) : IsFetchFault f := by
  cases hpg : s.pg with
  | false =>
    rw [translate_real hpg] at h
    cases h
  | true =>
    simp only [mmuTranslate, hpg, if_true] at h
    obtain hentry | ⟨pte, -, htests⟩ := except_bind_eq_error.1 h
    · exact .inr (.inl (addressOutOfRange_of_physRead32 hentry))
    · split_ifs at htests <;> cases htests
      · exact .inr (.inr ⟨_, _, rfl⟩)
      · exact .inl rfl

/-- A fetch faults in the translation or at the RAM port (R87). -/
theorem isFetchFault_of_memFetch {s : State} {va : Word} {f : Fault} (h : memFetch s va = .error f) :
    IsFetchFault f := by
  obtain htrans | ⟨pa, -, hread⟩ := except_bind_eq_error.1 h
  · exact isFetchFault_of_translate htrans
  · exact .inr (.inl (addressOutOfRange_of_physRead32 hread))

/-! ### One equation of `cycle` per way the fetch can go -/

theorem cycle_of_fetchWord0_error {s : State} {f : Fault} (h : fetchWord0 s = .error f) :
    cycle s = (.fault f, s) := by
  simp only [cycle, h]

theorem cycle_of_fetchInstr_error {s : State} {w0 : Word} {f : Fault} (h0 : fetchWord0 s = .ok w0)
    (h : fetchInstr (fetched s w0) w0 = .error f) : cycle s = (.fault f, fetched s w0) := by
  simp only [cycle, h0, h]

theorem cycle_of_fetchInstr_ok {s : State} {w0 : Word} {i : Instr} (h0 : fetchWord0 s = .ok w0)
    (h : fetchInstr (fetched s w0) w0 = .ok i) : cycle s = runDecoded i (fetched s w0) := by
  simp only [cycle, h0, h]

/-- A decoded instruction that faults leaves the state it was run in (R156). -/
theorem state_of_runDecoded_fault {i : Instr} {s t : State} {f : Fault} (h : runDecoded i s = (.fault f, t)) :
    t = s := by
  unfold runDecoded at h
  cases hx : exec i s with
  | next u =>
    rw [hx] at h
    by_cases hi : i = .haltWord <;> simp [hi] at h
  | fault g =>
    rw [hx] at h
    exact (Prod.mk.inj h).2.symm
  | refused r =>
    rw [hx] at h
    simp at h

/-- After word 0 is fetched, a faulting cycle leaves the state with that word in EIR (R131, R156). -/
theorem state_of_cycle_fault {s t : State} {w0 : Word} {f : Fault} (h0 : fetchWord0 s = .ok w0)
    (h : cycle s = (.fault f, t)) : t = fetched s w0 := by
  cases hi : fetchInstr (fetched s w0) w0 with
  | error g =>
    rw [cycle_of_fetchInstr_error h0 hi] at h
    exact (Prod.mk.inj h).2.symm
  | ok i =>
    rw [cycle_of_fetchInstr_ok h0 hi] at h
    exact state_of_runDecoded_fault h

/-- Settles O8: the fetch is MemFetch at EIP, and the cycle is taken apart by how the fetch of word 0 and
of the rest goes. -/
theorem fetchWritesEirUnlessItFaults : Obligations.FetchWritesEirUnlessItFaults := by
  refine ⟨fun _ => rfl, ?fault, ?run, ?later⟩
  case fault =>
    intro s f h
    exact ⟨cycle_of_fetchWord0_error h, isFetchFault_of_memFetch h⟩
  case run =>
    intro s w0 i h0 hi
    exact ⟨fetched_eir s w0, cycle_of_fetchInstr_ok h0 hi⟩
  case later =>
    intro s w0 f t h0 h
    rw [state_of_cycle_fault h0 h, fetched_eir]

end Sys2Proof.Machine
end

section
/-! The flags of a result (40 R143, R144): the model's bit tests are the numeric readings of the statements. -/

namespace Sys2Proof.Machine

theorem zeroFlag_eq (r : Word) : zeroFlag r = decide (r.toNat = 0) :=
  decide_eq_decide.2 BitVec.toNat_eq

theorem signFlag_eq (r : Word) : signFlag r = decide (2 ^ 31 ≤ r.toNat) :=
  BitVec.msb_eq_decide r

/-- The exclusive or of a list of bits is the parity of how many are 1. -/
theorem not_foldr_xor_eq (l : List Bool) :
    (!l.foldr xor false) = decide ((l.map Bool.toNat).sum % 2 = 0) := by
  induction l with
  | nil => rfl
  | cons b l ih =>
    rw [List.foldr_cons, List.map_cons, List.sum_cons, ← Bool.xor_not, ih]
    cases b
    · simp
    · rw [Bool.true_xor, ← decide_not, decide_eq_decide, Bool.toNat_true]
      omega

theorem parityFlag_eq (r : Word) : parityFlag r = decide (lowOnes r % 2 = 0) := by
  have h := not_foldr_xor_eq ((List.range 8).map r.getLsbD)
  rw [List.map_map] at h
  refine Eq.trans ?_ h
  simp [parityFlag, List.range_succ]

/-- The model's flags of a result are those the statements give in numbers (R143, R144). -/
theorem resultFlags_eq (r : Word) (cf of : Bool) : resultFlags r cf of = flagsOfResult r cf of := by
  rw [resultFlags, flagsOfResult, zeroFlag_eq, signFlag_eq, parityFlag_eq]

end Sys2Proof.Machine
end

section
/-! The adder (40 R141, R142): the carry chain is the carry of the sum, and so the bit-level adder is the
arithmetic one. `carryInto` is the library's `BitVec.carry`, which has the recurrence of the chain. -/

namespace Sys2Proof.Machine

@[simp] theorem add32_cf (a b : Word) (cin : Bool) : (add32 a b cin).flags.cf = carryInto 32 a b cin := rfl
@[simp] theorem add32_of (a b : Word) (cin : Bool) :
    (add32 a b cin).flags.of = (carryInto 32 a b cin ^^ carryInto 31 a b cin) := rfl

theorem add32_value_toNat (a b : Word) (cin : Bool) :
    (add32 a b cin).value.toNat = (a.toNat + b.toNat + cin.toNat) % 2 ^ 32 :=
  BitVec.toNat_ofNat _ _

theorem add32_value (a b : Word) (cin : Bool) :
    (add32 a b cin).value = a + b + BitVec.setWidth 32 (BitVec.ofBool cin) := by
  apply BitVec.eq_of_toNat_eq
  rw [add32_value_toNat]
  cases cin <;> simp

/-- Each carry of the chain is the carry of the sum of the lower bits (R141). -/
theorem rippleCarry_eq_carryInto (a b : Word) (cin : Bool) (n : Nat) :
    rippleCarry a b cin n = carryInto n a b cin := by
  induction n with
  | zero => exact BitVec.carry_zero.symm
  | succ n ih =>
    rw [rippleCarry, ih]
    exact (BitVec.carry_succ n a b cin).symm

/-- A bit of the sum is the exclusive or of the operands' bits and the carry into it (R141). -/
theorem getLsbD_add32_value (a b : Word) (cin : Bool) {i : Nat} (hi : i < 32) :
    (add32 a b cin).value.getLsbD i = (a.getLsbD i ^^ b.getLsbD i ^^ rippleCarry a b cin i) := by
  rw [add32_value, rippleCarry_eq_carryInto, Bool.xor_assoc]
  exact BitVec.getLsbD_add_add_bool hi a b cin

/-- The chain's low `n` result bits are those of the sum. -/
theorem rippleSum_eq_mod (a b : Word) (cin : Bool) {n : Nat} (hn : n ≤ 32) :
    rippleSum a b cin n = (add32 a b cin).value.toNat % 2 ^ n := by
  induction n with
  | zero => rw [rippleSum, Nat.pow_zero, Nat.mod_one]
  | succ n ih =>
    rw [rippleSum, ih (by omega), ← getLsbD_add32_value a b cin hn, Nat.mod_pow_succ, BitVec.getLsbD,
      Nat.toNat_testBit, Nat.mul_comm]

/-- The bit-level adder is the arithmetic one, flags included (R141). -/
theorem rippleAdd32_eq_add32 (a b : Word) (cin : Bool) : rippleAdd32 a b cin = add32 a b cin := by
  have hval : BitVec.ofNat 32 (rippleSum a b cin 32) = (add32 a b cin).value := by
    rw [rippleSum_eq_mod a b cin le_rfl, Nat.mod_eq_of_lt (BitVec.isLt _), BitVec.ofNat_toNat,
      BitVec.setWidth_eq]
  simp only [rippleAdd32, hval, rippleCarry_eq_carryInto]
  rfl

/-- Settles O21: the sum's bits and value are those of the arithmetic adder, which the chain equals. -/
theorem rippleCarryAdderIsAddition : Obligations.RippleCarryAdderIsAddition := by
  intro a b cin
  refine ⟨rfl, fun _ _ => rfl, ?bits, ?sum, resultFlags_eq _ _ _, rippleAdd32_eq_add32 a b cin⟩
  case bits =>
    intro i hi
    rw [rippleAdd32_eq_add32, getLsbD_add32_value a b cin hi]
  case sum => rw [rippleAdd32_eq_add32, add32_value_toNat]

/-- The carries into and out of bit 31 differ exactly when the signed sum leaves its range (R142). -/
theorem carry_xor_eq_outOfSigned (a b : Word) (cin : Bool) :
    (carryInto 32 a b cin ^^ carryInto 31 a b cin)
      = outOfSigned (a.toInt + b.toInt + (cin.toNat : Int)) := by
  have ha := a.isLt
  have hb := b.isLt
  have hc := cin.toNat_le
  rw [Bool.eq_iff_iff, bne_iff_ne, ne_eq, carryInto, carryInto, decide_eq_decide, outOfSigned, decide_eq_true_iff,
    BitVec.toInt_eq_toNat_cond, BitVec.toInt_eq_toNat_cond]
  split <;> split <;> omega

/-- Settles O22: carry and overflow are carries of the sum, which are the chain's; the signed reading is
`carry_xor_eq_outOfSigned`. -/
theorem carryAndOverflowOfAddition : Obligations.CarryAndOverflowOfAddition := by
  refine ⟨?carry, ?differ, ?range, by decide, by decide, by decide⟩
  case carry =>
    intro a b cin
    rw [add32_cf, rippleCarry_eq_carryInto]
  case differ =>
    intro a b cin
    rw [add32_of, rippleCarry_eq_carryInto, rippleCarry_eq_carryInto, bne_iff_ne, ne_comm]
  case range =>
    intro a b cin
    rw [add32_of, carry_xor_eq_outOfSigned, outOfSigned, decide_eq_true_iff]
    omega

end Sys2Proof.Machine
end

section
/-! The bitwise operations (40 R148): their values, and the one flag rule they share. -/

namespace Sys2Proof.Machine

@[simp] theorem aluAnd_value (a b : Word) : (aluAnd a b).value = a &&& b := rfl
@[simp] theorem aluOr_value (a b : Word) : (aluOr a b).value = a ||| b := rfl
@[simp] theorem aluXor_value (a b : Word) : (aluXor a b).value = a ^^^ b := rfl
@[simp] theorem aluNot_value (a : Word) : (aluNot a).value = ~~~a := rfl

/-- The flag rule of a bitwise operation: no carry, no overflow, the rest from the result (R148). -/
theorem logicResult_flags (r : Word) :
    (logicResult r).flags = flagsOfResult (logicResult r).value false false :=
  resultFlags_eq r false false

theorem word_or_and_distrib_left (a b c : Word) : a ||| b &&& c = (a ||| b) &&& (a ||| c) :=
  BitVec.eq_of_getLsbD_eq (by simp [Bool.or_and_distrib_left])

/-- Settles O26: the values are the library's operations on bit vectors, whose laws are cited one by one; the
flags are the shared rule. -/
theorem bitwiseOperationsAndTheirFlags : Obligations.BitwiseOperationsAndTheirFlags := by
  refine ⟨?bits, ?flags, ?involution, ?algebra⟩
  case bits =>
    intro a b k hk
    refine ⟨BitVec.getLsbD_and, BitVec.getLsbD_or, BitVec.getLsbD_xor, ?_⟩
    simp [hk]
  case flags =>
    intro a b x hx
    simp only [List.mem_cons, List.not_mem_nil, or_false] at hx
    obtain rfl | rfl | rfl | rfl := hx <;> exact logicResult_flags _
  case involution => exact fun _ => BitVec.not_not
  case algebra =>
    intro a b c
    exact ⟨BitVec.and_comm a b, BitVec.or_comm a b, BitVec.xor_comm a b, BitVec.and_assoc a b c,
      BitVec.or_assoc a b c, BitVec.xor_assoc a b c, BitVec.and_or_distrib_left, word_or_and_distrib_left a b c,
      BitVec.not_and, BitVec.not_or, BitVec.and_not_self a, BitVec.or_not_self a⟩

end Sys2Proof.Machine
end

section
/-! The mode switches of the host port (60 R297, R298): both are the write of PL alone. -/

namespace Sys2Proof.Machine

@[simp] theorem setPL_pl (s : State) (p : BitVec 2) : (s.setPL p).pl = p := flagPL_withPL s.flagsByte p

/-- The flags byte is the only field of the state that a write of PL touches. -/
theorem setPL_frame (s : State) (p : BitVec 2) : s.setPL p = { s with flagsByte := (s.setPL p).flagsByte } := rfl

/-- The six bits below PL are IF and the arithmetic flags (R30), which a write of PL keeps. -/
theorem getLsbD_withPL (b : Byte) (p : BitVec 2) : ∀ k, k < 6 → (withPL b p).getLsbD k = b.getLsbD k
  | 0, _ => flagIF_withPL b p
  | 1, _ => congrArg ArithFlags.pf (arithOf_withPL b p)
  | 2, _ => congrArg ArithFlags.of (arithOf_withPL b p)
  | 3, _ => congrArg ArithFlags.cf (arithOf_withPL b p)
  | 4, _ => congrArg ArithFlags.sf (arithOf_withPL b p)
  | 5, _ => congrArg ArithFlags.zf (arithOf_withPL b p)

/-- A host operation that answers with a write of PL, whatever the state was, is a mode switch and no more. -/
theorem modeSwitch_of_hostStep {op : HostOp} {p : BitVec 2} {s : State} (h : hostStep op s = (.done, s.setPL p)) :
    (hostStep op s).1 = .done ∧ (hostStep op s).2.pl = p
      ∧ (hostStep op s).2 = { s with flagsByte := (hostStep op s).2.flagsByte }
      ∧ ∀ k, k < 6 → (hostStep op s).2.flagsByte.getLsbD k = s.flagsByte.getLsbD k := by
  rw [h]
  exact ⟨rfl, setPL_pl s p, setPL_frame s p, getLsbD_withPL s.flagsByte p⟩

/-- Settles O58: each of the two operations is `setPL` at its level, with no test of the state before it. -/
theorem hostModeSwitches : Obligations.HostModeSwitches := by
  intro s p hp
  simp only [List.mem_cons, List.not_mem_nil, or_false] at hp
  obtain rfl | rfl := hp
  case inl => exact modeSwitch_of_hostStep (p := kernelPL) rfl
  case inr => exact modeSwitch_of_hostStep (p := userPL) rfl

end Sys2Proof.Machine
end

section
/-! What each instruction with a body of its own does when it answers (41 to 45), and from that, said once for
the whole instruction set, what a step can leave: `ExecResult`. Each whole-machine statement is then a case
split over its constructors. -/

namespace Sys2Proof.Machine

/-- Everything CMP does when it answers (R166). -/
theorem exec_cmp_eq_next {op1 op2 : Operand} {s t : State} :
    exec (.cmp op1 op2) s = .next t ↔
      op1.isNo = false ∧ op2.isNo = false
        ∧ ∃ b a, srcVal s op1 = .ok b ∧ srcVal s op2 = .ok a ∧ t = (s.setArith (aluSub a b).flags).advance := by
  simp [exec, execCmp, outcome_eq_next, except_bind_eq_ok, requirePresent_eq_ok, except_ok_eq_ok,
    -Except.ok.injEq]

/-- Everything MOV does when it answers (R210). -/
theorem exec_mov_eq_next {op1 op2 : Operand} {s t : State} :
    exec (.mov op1 op2) s = .next t ↔
      op1.isNo = false ∧ op2.isNo = false ∧ op2.isImm = false
        ∧ ∃ v, srcVal s op1 = .ok v ∧ ∃ u, writeOp s op2 v = .ok u ∧ t = u.advance := by
  simp [exec, execMov, outcome_eq_next, except_bind_eq_ok, requirePresent_eq_ok, requireTarget_eq_ok,
    except_ok_eq_ok, -Except.ok.injEq]

/-- Everything PUSH does when it answers (R212). -/
theorem exec_push_eq_next {op1 op2 : Operand} {s t : State} :
    exec (.push op1 op2) s = .next t ↔
      op1.isNo = false
        ∧ ∃ v, srcVal (s.setEsp (s.esp - 4#32)) op1 = .ok v ∧ ∃ u, push32 s v = .ok u ∧ t = u.advance := by
  simp [exec, execPush, outcome_eq_next, except_bind_eq_ok, requirePresent_eq_ok, except_ok_eq_ok,
    -Except.ok.injEq]

/-- Everything POP does when it answers (R213). -/
theorem exec_pop_eq_next {op1 op2 : Operand} {s t : State} :
    exec (.pop op1 op2) s = .next t ↔
      op1.isNo = false ∧ op1.isImm = false
        ∧ ∃ v, memRead32 s s.esp = .ok v
          ∧ ∃ u, writeOp s op1 v = .ok u ∧ t = (u.setEsp (u.esp + 4#32)).advance := by
  simp [exec, execPop, outcome_eq_next, except_bind_eq_ok, requirePresent_eq_ok, requireTarget_eq_ok,
    except_ok_eq_ok, -Except.ok.injEq]

/-- Everything PUSHF does when it answers (R214). -/
theorem exec_pushf_eq_next {op1 op2 : Operand} {s t : State} :
    exec (.pushf op1 op2) s = .next t ↔
      s.pl = kernelPL ∧ ∃ u, push8 s s.flagsByte = .ok u ∧ t = u.advance := by
  simp [exec, execPushf, outcome_eq_next, except_bind_eq_ok, requireKernel_eq_ok, except_ok_eq_ok,
    -Except.ok.injEq]

/-- Everything POPF does when it answers (R215). -/
theorem exec_popf_eq_next {op1 op2 : Operand} {s t : State} :
    exec (.popf op1 op2) s = .next t ↔
      s.pl = kernelPL ∧ ∃ b, memRead8 s s.esp = .ok b
        ∧ t = ((s.setEsp (s.esp + 4#32)).setFlagsByte b).advance := by
  simp [exec, execPopf, pop8, outcome_eq_next, except_bind_eq_ok, requireKernel_eq_ok, except_ok_eq_ok,
    -Except.ok.injEq]

/-- Everything JMP does when it answers (R231). -/
theorem exec_jmp_eq_next {op1 op2 : Operand} {s t : State} :
    exec (.jmp op1 op2) s = .next t ↔
      op1.isNo = false ∧ ∃ a, addrVal s op1 = .ok a ∧ t = s.setEip a := by
  simp [exec, execJmp, outcome_eq_next, except_bind_eq_ok, requirePresent_eq_ok, except_ok_eq_ok,
    -Except.ok.injEq]

/-- Everything CALL does when it answers (R238). -/
theorem exec_call_eq_next {op1 op2 : Operand} {s t : State} :
    exec (.call op1 op2) s = .next t ↔
      op1.isNo = false
        ∧ ∃ u, push32 s (s.eip + 12#32) = .ok u ∧ ∃ a, addrVal u op1 = .ok a ∧ t = u.setEip a := by
  simp [exec, execCall, outcome_eq_next, except_bind_eq_ok, requirePresent_eq_ok, except_ok_eq_ok,
    -Except.ok.injEq]

/-- Everything RET does when it answers (R239). -/
theorem exec_ret_eq_next {op1 op2 : Operand} {s t : State} :
    exec (.ret op1 op2) s = .next t ↔
      ∃ ra, memRead32 s s.esp = .ok ra ∧ t = (s.setEsp (s.esp + 4#32)).setEip ra := by
  simp [exec, execRet, pop32, outcome_eq_next, except_bind_eq_ok, except_ok_eq_ok, -Except.ok.injEq]

/-- Everything CLI does when it answers (R250). -/
theorem exec_cli_eq_next {op1 op2 : Operand} {s t : State} :
    exec (.cli op1 op2) s = .next t ↔ s.pl = kernelPL ∧ t = (s.setIF false).advance := by
  simp [exec, execCli, outcome_eq_next, except_bind_eq_ok, requireKernel_eq_ok, except_ok_eq_ok,
    -Except.ok.injEq]

/-- Everything STI does when it answers (R251). -/
theorem exec_sti_eq_next {op1 op2 : Operand} {s t : State} :
    exec (.sti op1 op2) s = .next t ↔ s.pl = kernelPL ∧ t = (s.setIF true).advance := by
  simp [exec, execSti, outcome_eq_next, except_bind_eq_ok, requireKernel_eq_ok, except_ok_eq_ok,
    -Except.ok.injEq]

/-- The target of INT, evaluated in the state trap entry has made (R252). -/
def intTarget (op : Operand) (s : State) : Except Fault Word := (srcVal s op).map (s.itp + ·)

theorem interrupt_eq (op : Operand) (s : State) :
    interrupt op s = (requirePresent op >>= fun _ => trapEnter (intTarget op) s) := by
  have htarget : (fun s1 => srcVal s1 op >>= fun n => .ok (s1.itp + n)) = intTarget op := by
    funext s1
    unfold intTarget
    cases srcVal s1 op <;> rfl
  exact congrArg (fun target => requirePresent op >>= fun _ => trapEnter target s) htarget

/-- Everything the INT handler does when it answers (R252). -/
theorem interrupt_eq_ok {op : Operand} {s t : State} :
    interrupt op s = .ok t ↔ op.isNo = false ∧ trapEnter (intTarget op) s = .ok t := by
  simp [interrupt_eq, except_bind_eq_ok, requirePresent_eq_ok]

/-- Everything INT does when it answers (R252). -/
theorem exec_int_eq_next {op1 op2 : Operand} {s t : State} :
    exec (.int op1 op2) s = .next t ↔ op1.isNo = false ∧ trapEnter (intTarget op1) s = .ok t :=
  outcome_eq_next.trans interrupt_eq_ok

/-- Everything SYSENTER does when it answers (R254). -/
theorem exec_sysenter_eq_next {op1 op2 : Operand} {s t : State} :
    exec (.sysenter op1 op2) s = .next t ↔
      op1.isNo = false ∧ trapEnter (fun s1 => addrVal s1 op1) s = .ok t := by
  simp [exec, execSysenter, outcome_eq_next, except_bind_eq_ok, requirePresent_eq_ok]

/-- INT and SYSENTER, the instructions that enter a trap. -/
def IsTrapEntry (i : Instr) : Prop := ∃ a b, i = .int a b ∨ i = .sysenter a b

/-- IRET and SYSEXIT, the instructions that return from one. -/
def IsTrapReturn (i : Instr) : Prop := ∃ a b, i = .iret a b ∨ i = .sysexit a b

/-- The states an instruction can leave: an operand written and what comes after it, the flags, EIP, the
stack, or a trap. -/
inductive ExecResult (s : State) (i : Instr) : State → Prop where
  | alu {op : Operand} {v : Word} {u : State} (f : ArithFlags) :
      writtenOperand i = some op → writeOp s op v = .ok u → ExecResult s i (u.setArith f).advance
  | mov {op : Operand} {v : Word} {u : State} :
      writtenOperand i = some op → writeOp s op v = .ok u → ExecResult s i u.advance
  | pop {op : Operand} {v : Word} {u : State} :
      writtenOperand i = some op → writeOp s op v = .ok u →
        ExecResult s i (u.setEsp (u.esp + 4#32)).advance
  | cmp (f : ArithFlags) : ExecResult s i (s.setArith f).advance
  | eip (a : Word) : ExecResult s i (s.setEip a)
  | push {v : Word} {u : State} (a : Word) : push32 s v = .ok u → ExecResult s i (u.setEip a)
  | pushf {u : State} : s.pl = kernelPL → push8 s s.flagsByte = .ok u → ExecResult s i u.advance
  | popf {a b : Operand} (y : Byte) : s.pl = kernelPL → i = .popf a b →
      ExecResult s i ((s.setEsp (s.esp + 4#32)).setFlagsByte y).advance
  | ret (a : Word) : ExecResult s i ((s.setEsp (s.esp + 4#32)).setEip a)
  | setIF (e : Bool) : s.pl = kernelPL → ExecResult s i (s.setIF e).advance
  | trapEnter {target : State → Except Fault Word} {t : State} :
      IsTrapEntry i → trapEnter target s = .ok t → ExecResult s i t
  | trapReturn {t : State} : IsTrapReturn i → trapReturn s = .ok t → ExecResult s i t

theorem execResult_of_aluTwo {f : Bool → Word → Word → Except Fault AluResult} {op1 op2 : Operand} {i : Instr}
    {s t : State} (hi : writtenOperand i = some op2) (h : outcome (aluTwo f op1 op2 s) = .next t) :
    ExecResult s i t := by
  obtain ⟨-, -, -, b, a, r, u, -, -, -, hu, rfl⟩ := aluTwo_eq_ok.1 (outcome_eq_next.1 h)
  exact .alu r.flags hi hu

theorem execResult_of_aluOne {f : Word → AluResult} {op1 : Operand} {i : Instr} {s t : State}
    (hi : writtenOperand i = some op1) (h : outcome (aluOne f op1 s) = .next t) : ExecResult s i t := by
  obtain ⟨-, -, x, u, -, hu, rfl⟩ := aluOne_eq_ok.1 (outcome_eq_next.1 h)
  exact .alu (f x).flags hi hu

theorem execResult_of_condJump {c : Byte → Bool} {op1 : Operand} {i : Instr} {s t : State}
    (h : outcome (condJump c op1 s) = .next t) : ExecResult s i t := by
  obtain ⟨-, ⟨-, a, -, rfl⟩ | ⟨-, rfl⟩⟩ := condJump_eq_ok.1 (outcome_eq_next.1 h)
  · exact .eip a
  · exact .eip (s.eip + 12#32)

/-- An instruction that answers leaves one of the states of `ExecResult`. -/
theorem execResult_of_exec {i : Instr} {s t : State} (h : exec i s = .next t) : ExecResult s i t := by
  cases i with
  | add op1 op2 | adc op1 op2 | sub op1 op2 | sbb op1 op2 | mul op1 op2 | div op1 op2 | and op1 op2
  | or op1 op2 | xor op1 op2 | shl op1 op2 | shr op1 op2 => exact execResult_of_aluTwo rfl h
  | neg op1 op2 | not op1 op2 => exact execResult_of_aluOne rfl h
  | cmp op1 op2 =>
    obtain ⟨-, -, b, a, -, -, rfl⟩ := exec_cmp_eq_next.1 h
    exact .cmp _
  | mov op1 op2 =>
    obtain ⟨-, -, -, v, -, u, hu, rfl⟩ := exec_mov_eq_next.1 h
    exact .mov rfl hu
  | nop op1 op2 =>
    cases h
    exact .eip (s.eip + 12#32)
  | push op1 op2 =>
    obtain ⟨-, v, -, u, hu, rfl⟩ := exec_push_eq_next.1 h
    exact .push (u.eip + 12#32) hu
  | pop op1 op2 =>
    obtain ⟨-, -, v, -, u, hu, rfl⟩ := exec_pop_eq_next.1 h
    exact .pop rfl hu
  | pushf op1 op2 =>
    obtain ⟨hk, u, hu, rfl⟩ := exec_pushf_eq_next.1 h
    exact .pushf hk hu
  | popf op1 op2 =>
    obtain ⟨hk, b, -, rfl⟩ := exec_popf_eq_next.1 h
    exact .popf b hk rfl
  | cli op1 op2 =>
    obtain ⟨hk, rfl⟩ := exec_cli_eq_next.1 h
    exact .setIF false hk
  | sti op1 op2 =>
    obtain ⟨hk, rfl⟩ := exec_sti_eq_next.1 h
    exact .setIF true hk
  | jmp op1 op2 =>
    obtain ⟨-, a, -, rfl⟩ := exec_jmp_eq_next.1 h
    exact .eip a
  | jz op1 op2 | je op1 op2 | jnz op1 op2 | jne op1 op2 | jg op1 op2 | jge op1 op2 | jl op1 op2
  | jle op1 op2 => exact execResult_of_condJump h
  | call op1 op2 =>
    obtain ⟨-, u, hu, a, -, rfl⟩ := exec_call_eq_next.1 h
    exact .push a hu
  | ret op1 op2 =>
    obtain ⟨ra, -, rfl⟩ := exec_ret_eq_next.1 h
    exact .ret ra
  | int op1 op2 => exact .trapEnter ⟨op1, op2, .inl rfl⟩ (exec_int_eq_next.1 h).2
  | iret op1 op2 => exact .trapReturn ⟨op1, op2, .inl rfl⟩ (outcome_eq_next.1 h)
  | sysenter op1 op2 => exact .trapEnter ⟨op1, op2, .inr rfl⟩ (exec_sysenter_eq_next.1 h).2
  | sysexit op1 op2 => exact .trapReturn ⟨op1, op2, .inr rfl⟩ (outcome_eq_next.1 h)
  | haltWord =>
    cases h
    exact .eip s.eip

/-- Everything a step does when it answers: it fetches word 0, then the rest, and runs the instruction with
the word in EIR (R130, R131). -/
theorem step_eq_next {s t : State} :
    step s = .next t ↔ ∃ w0 i, fetchWord0 s = .ok w0 ∧ fetchInstr (fetched s w0) w0 = .ok i
      ∧ exec i (fetched s w0) = .next t := by
  unfold step
  cases fetchWord0 s with
  | error f => simp
  | ok w0 => cases hi : fetchInstr (fetched s w0) w0 <;> simp [hi]

end Sys2Proof.Machine
end

section
/-! Frames of the updates that carry the whole-machine statements: the stack, the trap, and the write of an
operand, in terms of registers, mode and machine (40 R136, 43 R216, 45 R252, R253). -/

namespace Sys2Proof.Machine

@[simp] theorem setArith_pl (s : State) (f : ArithFlags) : (s.setArith f).pl = s.pl :=
  flagPL_withArith s.flagsByte f

@[simp] theorem setIF_pl (s : State) (e : Bool) : (s.setIF e).pl = s.pl := flagPL_withIF s.flagsByte e

theorem pl_congr {s t : State} (h : t.flagsByte = s.flagsByte) : t.pl = s.pl := congrArg flagPL h

theorem sameMachine_trans {s t u : State} (h : SameMachine s t) (h' : SameMachine t u) : SameMachine s u :=
  ⟨h'.1.trans h.1, h'.2.trans h.2⟩

theorem sameModeBits_of_flagsByte {s t : State} (h : t.flagsByte = s.flagsByte) : SameModeBits s t :=
  ⟨congrArg flagPL h, congrArg flagIF h⟩

theorem setEip_frame (s : State) (v : Word) : SameRegsBut [.eip] s (s.setEip v) :=
  fun _ hr => setEip_getReg s v fun e => hr (by simp [e])

theorem setEsp_frame (s : State) (v : Word) : SameRegsBut [.esp] s (s.setEsp v) :=
  fun _ hr => setEsp_getReg s v fun e => hr (by simp [e])

theorem setFlagsByte_frame (s : State) (b : Byte) : SameRegsBut [.eflags] s (s.setFlagsByte b) :=
  fun _ hr => setFlagsByte_getReg s b fun e => hr (by simp [e])

theorem setRam_frame (s : State) (m : Memory) : SameRegsBut [] s (s.setRam m) :=
  fun r _ => setRam_getReg s m r

theorem setReg_frame (s : State) (r : Reg) (v : Word) : SameRegsBut [r] s (s.setReg r v) :=
  fun r' hr => getReg_setReg_other s r r' v fun e => hr (by simp [e])

/-- Frames over two lists of registers compose over the lists together. -/
theorem sameRegsBut_append {l l' : List Reg} {s t u : State} (h : SameRegsBut l s t) (h' : SameRegsBut l' t u) :
    SameRegsBut (l ++ l') s u :=
  sameRegsBut_trans (sameRegsBut_mono h fun _ => List.mem_append_left l')
    (sameRegsBut_mono h' fun _ => List.mem_append_right l)

/-- A push changes ESP and the RAM (R216). -/
theorem push_frame {s t : State} {v : Word} {m : Memory} (h : t = (s.setEsp v).setRam m) :
    SameRegsBut [.esp] s t ∧ SameMachine s t ∧ t.flagsByte = s.flagsByte := by
  subst h
  exact ⟨sameRegsBut_append (setEsp_frame s v) (setRam_frame _ m), ⟨rfl, rfl⟩, rfl⟩

theorem push32_frame {s t : State} {v : Word} (h : push32 s v = .ok t) :
    SameRegsBut [.esp] s t ∧ SameMachine s t ∧ t.flagsByte = s.flagsByte := by
  obtain ⟨pa, -, -, ht⟩ := push32_eq_ok.1 h
  exact push_frame ht

theorem push8_frame {s t : State} {b : Byte} (h : push8 s b = .ok t) :
    SameRegsBut [.esp] s t ∧ SameMachine s t ∧ t.flagsByte = s.flagsByte := by
  obtain ⟨pa, -, -, ht⟩ := push8_eq_ok.1 h
  exact push_frame ht

/-- What a trap entry leaves: kernel mode with IF clear, and only EIP, ESP and EFLAGS of the registers
changed (R252). -/
theorem trapEnter_frame {target : State → Except Fault Word} {s t : State} (h : trapEnter target s = .ok t) :
    SameRegsBut [.eip, .esp, .eflags] s t ∧ SameMachine s t ∧ t.flagsByte = s.enterKernel.flagsByte := by
  obtain ⟨v, s2, s3, -, h2, h3, rfl⟩ := trapEnter_eq_ok.1 h
  obtain ⟨r2, m2, f2⟩ := push8_frame h2
  obtain ⟨r3, m3, f3⟩ := push32_frame h3
  have r1 : SameRegsBut [.eflags] s s.enterKernel := fun r hr => enterKernel_getReg s fun e => hr (by simp [e])
  refine ⟨?_, sameMachine_trans m2 m3, f3.trans f2⟩
  exact sameRegsBut_mono (sameRegsBut_append (sameRegsBut_append (sameRegsBut_append r1 r2) r3) (setEip_frame s3 v))
    (by decide)

@[simp] theorem flagPL_enterKernel (s : State) : flagPL s.enterKernel.flagsByte = kernelPL := by simp
@[simp] theorem flagIF_enterKernel (s : State) : flagIF s.enterKernel.flagsByte = false := by simp
@[simp] theorem arithOf_enterKernel (s : State) : arithOf s.enterKernel.flagsByte = arithOf s.flagsByte := by simp

theorem word_add_four_four (x : Word) : x + 4#32 + 4#32 = x + 8#32 := by bv_omega
theorem word_sub_four_four (x : Word) : x - 4#32 - 4#32 = x - 8#32 := by bv_omega

/-- A trap return in full: two pops, then the flags byte of R253, EIP and ESP. -/
theorem trapReturn_eq_ok_iff {s t : State} :
    trapReturn s = .ok t ↔ s.pl = kernelPL ∧ ∃ ra b, memRead32 s s.esp = .ok ra
      ∧ memRead8 s (s.esp + 4#32) = .ok b
      ∧ t = ((s.setEsp (s.esp + 8#32)).setFlagsByte (returnFlags b)).setEip ra := by
  rw [trapReturn_eq_ok]
  refine and_congr_right fun _ => ⟨?_, ?_⟩
  · rintro ⟨ra, s1, b, s2, h1, h2, rfl⟩
    obtain ⟨pa, hpa, hb, hx⟩ := pop32_eq_ok.1 h1
    obtain ⟨rfl, rfl⟩ := Prod.mk.inj hx
    obtain ⟨pa', hpa', hb', hy⟩ := pop8_eq_ok.1 h2
    obtain ⟨rfl, rfl⟩ := Prod.mk.inj hy
    refine ⟨_, _, memRead32_eq_ok.2 ⟨pa, hpa, hb, rfl⟩, memRead8_eq_ok.2 ⟨pa', hpa', hb', rfl⟩, ?_⟩
    rw [← word_add_four_four]
    rfl
  · rintro ⟨ra, b, h1, h2, rfl⟩
    obtain ⟨pa, hpa, hb, rfl⟩ := memRead32_eq_ok.1 h1
    obtain ⟨pa', hpa', hb', rfl⟩ := memRead8_eq_ok.1 h2
    refine ⟨_, _, _, _, pop32_eq_ok.2 ⟨pa, hpa, hb, rfl⟩, pop8_eq_ok.2 ⟨pa', hpa', hb', rfl⟩, ?_⟩
    rw [← word_add_four_four]
    rfl

/-- Which register, if any, a write to an operand changes, and that user mode may only change four of
them (R136, R139). -/
theorem writeOp_user {s u : State} {op : Operand} {v : Word} (hs : s.pl ≠ kernelPL) (h : writeOp s op v = .ok u) :
    SameRegsBut [.eax, .ebx, .ecx, .esp] s u ∧ u.flagsByte = s.flagsByte := by
  rcases writeOp_eq_ok.1 h with ⟨c, rfl, h1⟩ | ⟨-, a, -, h1⟩
  · obtain ⟨r, -, -, hp, rfl⟩ := regWrite_eq_ok.1 h1
    have hr : userWritable r = true := hp.resolve_left hs
    have hmem : r ∈ [Reg.eax, .ebx, .ecx, .esp] := by revert hr; cases r <;> decide
    exact ⟨sameRegsBut_mono (setReg_frame s r v) (by simpa using hmem),
      setReg_flagsByte s r v fun e => by simp [e] at hmem⟩
  · obtain ⟨pa, -, -, rfl⟩ := memWrite32_eq_ok.1 h1
    exact ⟨sameRegsBut_mono (setRam_frame s _) (by simp), rfl⟩

end Sys2Proof.Machine
end

section
/-! The state invariant (20 R62, R65; 10 R41): every update a step or the host makes keeps it. -/

namespace Sys2Proof.Machine

theorem wf_iff {s : State} :
    s.wf = true ↔ s.ram.wf = true ∧ s.ram.within s.capacity = true ∧ (s.pg = true ∨ s.gptp = 0#32) := by
  simp [State.wf, and_assoc]

/-- The invariant is kept, and with it PG and CAPACITY. -/
def KeepsWf (s t : State) : Prop := (s.wf = true → t.wf = true) ∧ SameMachine s t

theorem keepsWf_trans {s t u : State} (h : KeepsWf s t) (h' : KeepsWf t u) : KeepsWf s u :=
  ⟨h'.1 ∘ h.1, sameMachine_trans h.2 h'.2⟩

/-- The invariant reads the RAM, CAPACITY, PG and GPTP only. -/
theorem keepsWf_of_fields {s t : State} (hram : t.ram = s.ram) (hc : t.capacity = s.capacity) (hpg : t.pg = s.pg)
    (hg : t.gptp = s.gptp) : KeepsWf s t := by
  refine ⟨fun h => ?_, hpg, hc⟩
  rwa [State.wf, hram, hc, hpg, hg]

/-- A write of a register that is there keeps the invariant: GPTP is there only while PG is set (R41). -/
theorem keepsWf_setReg {s : State} {r : Reg} (v : Word) (h : s.hasReg r = true) : KeepsWf s (s.setReg r v) := by
  by_cases hr : r = .gptp
  · subst hr
    have hpg : s.pg = true := by simpa [State.hasReg] using h
    refine ⟨fun hs => ?_, rfl, rfl⟩
    obtain ⟨hw, hin, -⟩ := wf_iff.1 hs
    exact wf_iff.2 ⟨hw, hin, .inl hpg⟩
  · exact keepsWf_of_fields (setReg_ram s r v) (setReg_capacity s r v) (setReg_pg s r v) (setReg_gptp s r v hr)

theorem keepsWf_setRam {s : State} {m : Memory} (hw : s.ram.wf = true → m.wf = true)
    (hin : s.ram.within s.capacity = true → m.within s.capacity = true) : KeepsWf s (s.setRam m) := by
  refine ⟨fun hs => ?_, rfl, rfl⟩
  obtain ⟨h1, h2, h3⟩ := wf_iff.1 hs
  exact wf_iff.2 ⟨hw h1, hin h2, h3⟩

theorem keepsWf_physWrite8 {s t : State} {pa : Nat} {b : Byte} (h : physWrite8 s pa b = .ok t) : KeepsWf s t := by
  obtain ⟨hb, rfl⟩ := physWrite8_eq_ok.1 h
  exact keepsWf_setRam (wf_write _ _ _) (fun hin => within_write _ _ _ _ hin hb)

theorem keepsWf_physWrite32 {s t : State} {pa : Nat} {v : Word} (h : physWrite32 s pa v = .ok t) : KeepsWf s t := by
  obtain ⟨hb, rfl⟩ := physWrite32_eq_ok.1 h
  exact keepsWf_setRam (wf_writeWord _ _ _) (fun hin => within_writeWord _ _ _ _ hin hb)

theorem keepsWf_memWrite8 {s t : State} {va : Word} {b : Byte} (h : memWrite8 s va b = .ok t) : KeepsWf s t := by
  obtain ⟨pa, -, hw⟩ := except_bind_eq_ok.1 h
  exact keepsWf_physWrite8 hw

theorem keepsWf_memWrite32 {s t : State} {va v : Word} (h : memWrite32 s va v = .ok t) : KeepsWf s t := by
  obtain ⟨pa, -, hw⟩ := except_bind_eq_ok.1 h
  exact keepsWf_physWrite32 hw

theorem keepsWf_push8 {s t : State} {b : Byte} (h : push8 s b = .ok t) : KeepsWf s t :=
  keepsWf_trans (t := s.setEsp (s.esp - 4#32)) (keepsWf_of_fields rfl rfl rfl rfl)
    (keepsWf_memWrite8 (va := s.esp - 4#32) h)

theorem keepsWf_push32 {s t : State} {v : Word} (h : push32 s v = .ok t) : KeepsWf s t :=
  keepsWf_trans (t := s.setEsp (s.esp - 4#32)) (keepsWf_of_fields rfl rfl rfl rfl)
    (keepsWf_memWrite32 (va := s.esp - 4#32) h)

theorem keepsWf_writeOp {s t : State} {op : Operand} {v : Word} (h : writeOp s op v = .ok t) : KeepsWf s t := by
  rcases writeOp_eq_ok.1 h with ⟨c, -, h1⟩ | ⟨-, a, -, h1⟩
  · obtain ⟨r, -, hr, -, rfl⟩ := regWrite_eq_ok.1 h1
    exact keepsWf_setReg v hr
  · exact keepsWf_memWrite32 h1

theorem keepsWf_trapEnter {target : State → Except Fault Word} {s t : State} (h : trapEnter target s = .ok t) :
    KeepsWf s t := by
  obtain ⟨v, s2, s3, -, h2, h3, rfl⟩ := trapEnter_eq_ok.1 h
  have h1 : KeepsWf s s.enterKernel := keepsWf_of_fields rfl rfl rfl rfl
  exact keepsWf_trans h1 (keepsWf_trans (keepsWf_push8 h2)
    (keepsWf_trans (keepsWf_push32 h3) (keepsWf_of_fields rfl rfl rfl rfl)))

theorem keepsWf_exec {i : Instr} {s t : State} (h : exec i s = .next t) : KeepsWf s t := by
  cases execResult_of_exec h with
  | alu f _ hu | mov _ hu | pop _ hu =>
    exact keepsWf_trans (keepsWf_writeOp hu) (keepsWf_of_fields rfl rfl rfl rfl)
  | cmp | eip | popf | ret | setIF => exact keepsWf_of_fields rfl rfl rfl rfl
  | push a hu => exact keepsWf_trans (keepsWf_push32 hu) (keepsWf_of_fields rfl rfl rfl rfl)
  | pushf _ hu => exact keepsWf_trans (keepsWf_push8 hu) (keepsWf_of_fields rfl rfl rfl rfl)
  | trapEnter _ ht => exact keepsWf_trapEnter ht
  | trapReturn _ ht =>
    obtain ⟨-, ra, b, -, -, rfl⟩ := trapReturn_eq_ok_iff.1 ht
    exact keepsWf_of_fields rfl rfl rfl rfl

theorem keepsWf_fetched (s : State) (w0 : Word) : KeepsWf s (fetched s w0) := keepsWf_of_fields rfl rfl rfl rfl

theorem keepsWf_step {s t : State} (h : step s = .next t) : KeepsWf s t := by
  obtain ⟨w0, i, -, -, hx⟩ := step_eq_next.1 h
  exact keepsWf_trans (keepsWf_fetched s w0) (keepsWf_exec hx)

/-- Settles O51: each state a step can leave is reached by updates that keep the invariant. -/
theorem stepKeepsTheStateInvariant : Obligations.StepKeepsTheStateInvariant := by
  intro s t hs h
  obtain ⟨hwf, hpg, hc⟩ := keepsWf_step h
  exact ⟨hwf hs, hpg, hc⟩

theorem keepsWf_runDecoded (i : Instr) (s : State) : KeepsWf s (runDecoded i s).2 := by
  unfold runDecoded
  cases hx : exec i s with
  | next t => exact keepsWf_exec hx
  | fault f | refused r => exact keepsWf_of_fields rfl rfl rfl rfl

/-- A cycle keeps the invariant however it ends. -/
theorem keepsWf_cycle (s : State) : KeepsWf s (cycle s).2 := by
  unfold cycle
  cases fetchWord0 s with
  | error f => exact keepsWf_of_fields rfl rfl rfl rfl
  | ok w0 =>
    cases hi : fetchInstr (fetched s w0) w0 with
    | error f => simpa only [hi] using keepsWf_fetched s w0
    | ok i => simpa only [hi] using keepsWf_trans (keepsWf_fetched s w0) (keepsWf_runDecoded i _)

/-- A switch of PG with GPTP emptied keeps the invariant (R299, R300). -/
theorem wf_of_emptied_gptp {s t : State} (hram : t.ram = s.ram) (hc : t.capacity = s.capacity)
    (hg : t.gptp = 0#32) (hs : s.wf = true) : t.wf = true := by
  obtain ⟨h1, h2, -⟩ := wf_iff.1 hs
  exact wf_iff.2 ⟨hram ▸ h1, by rwa [hram, hc], .inr hg⟩

theorem enablePaging_eq (s : State) :
    s.enablePaging = if s.pg = true then s else { s with pg := true, gptp := 0#32 } := rfl

theorem disablePaging_eq (s : State) :
    s.disablePaging = if s.pg = true then { s with pg := false, gptp := 0#32 } else s := rfl

theorem wf_enablePaging {s : State} (hs : s.wf = true) : s.enablePaging.wf = true := by
  rw [enablePaging_eq]
  split
  · exact hs
  · exact wf_of_emptied_gptp (s := s) rfl rfl rfl hs

theorem wf_disablePaging {s : State} (hs : s.wf = true) : s.disablePaging.wf = true := by
  rw [disablePaging_eq]
  split
  · exact wf_of_emptied_gptp (s := s) rfl rfl rfl hs
  · exact hs

theorem keepsWf_interrupt {op : Operand} {s t : State} (h : interrupt op s = .ok t) : KeepsWf s t :=
  keepsWf_trapEnter (interrupt_eq_ok.1 h).2

theorem hostStep_keeps (op : HostOp) (s : State) :
    (s.wf = true → (hostStep op s).2.wf = true) ∧ (hostStep op s).2.capacity = s.capacity := by
  have of_keeps {t : State} (h : KeepsWf s t) : (s.wf = true → t.wf = true) ∧ t.capacity = s.capacity :=
    ⟨h.1, h.2.2⟩
  have unchanged : (s.wf = true → s.wf = true) ∧ s.capacity = s.capacity := ⟨id, rfl⟩
  cases op with
  | cycle => exact of_keeps (keepsWf_cycle s)
  | enterKernelMode | enterUserMode => exact of_keeps (keepsWf_of_fields rfl rfl rfl rfl)
  | enableMemoryVirtualization => exact ⟨wf_enablePaging, enablePaging_capacity s⟩
  | disableMemoryVirtualization => exact ⟨wf_disablePaging, disablePaging_capacity s⟩
  | int o =>
    simp only [hostStep, hostInt]
    split
    · next t ht => exact of_keeps (keepsWf_interrupt ht)
    · exact unchanged
  | regGet r =>
    simp only [hostStep]
    split <;> exact unchanged
  | regSet r v =>
    simp only [hostStep]
    split
    · next hr => exact of_keeps (keepsWf_setReg v hr)
    · exact unchanged
  | ramRead pa =>
    simp only [hostStep]
    split <;> exact unchanged
  | ramWrite pa b =>
    simp only [hostStep]
    split
    · next t ht => exact of_keeps (keepsWf_physWrite8 ht)
    · exact unchanged
  | reset => exact ⟨wf_of_emptied_gptp rfl rfl rfl, rfl⟩

theorem wf_resetWith (c : Word) : (State.resetWith c).wf = true := wf_iff.2 ⟨rfl, rfl, .inr rfl⟩

/-- Settles O53: every host operation keeps the invariant and CAPACITY, and so by induction every reachable
state has them. -/
theorem everyReachableStateIsWellFormed : Obligations.EveryReachableStateIsWellFormed := by
  refine ⟨fun op s hs => ⟨(hostStep_keeps op s).1 hs, (hostStep_keeps op s).2⟩, ?_⟩
  intro c s h
  induction h with
  | reset => exact ⟨wf_resetWith c, rfl⟩
  | host op s _ ih =>
    obtain ⟨hwf, hc⟩ := ih
    exact ⟨(hostStep_keeps op s).1 hwf, (hostStep_keeps op s).2.trans hc⟩

/-- Settles O52: the reset table, register by register; the RAM is the empty list. -/
theorem resetValues : Obligations.ResetValues := by
  refine ⟨?regs, rfl, rfl, rfl, rfl, read_reset, wf_resetWith _, rfl⟩
  case regs =>
    intro r
    cases r <;> rfl

end Sys2Proof.Machine
end

section
/-! Privilege (60 R293, R294): what a step can do to PL, and what user mode leaves alone. -/

namespace Sys2Proof.Machine

/-- A write of an operand that changes PL is kernel mode's write of EFLAGS (R136). -/
theorem writeOp_pl {s u : State} {op : Operand} {v : Word} (h : writeOp s op v = .ok u) (hpl : u.pl ≠ s.pl) :
    s.pl = kernelPL ∧ targetReg op = some .eflags := by
  refine ⟨?_, ?_⟩
  · by_contra hk
    exact hpl (pl_congr (writeOp_user hk h).2)
  · by_contra hne
    exact hpl (pl_congr (writeOp_flagsByte h hne))

/-- Settles O54: of the states a step can leave, only those of a trap, of POPF and of an operand write of
EFLAGS have another PL. -/
theorem privilegeLevelChangesOnlyByItsInstructions : Obligations.PrivilegeLevelChangesOnlyByItsInstructions := by
  intro i s t h hpl
  cases execResult_of_exec h with
  | alu f hi hu | mov hi hu | pop hi hu =>
    obtain ⟨hk, hop⟩ := writeOp_pl hu (by simpa using hpl)
    exact ⟨fun hn => absurd hk hn, fun _ => .inr (.inr ⟨_, hi, hop⟩)⟩
  | cmp | eip | ret | setIF => simp at hpl
  | push a hu => exact absurd (pl_congr (push32_frame hu).2.2) hpl
  | pushf _ hu => exact absurd (pl_congr (push8_frame hu).2.2) hpl
  | popf y hk hi => exact ⟨fun hn => absurd hk hn, fun _ => .inr (.inl ⟨_, _, hi⟩)⟩
  | trapEnter hi ht =>
    have hkern : t.pl = kernelPL := (pl_congr (trapEnter_frame ht).2.2).trans (enterKernel_pl s)
    exact ⟨fun _ => ⟨hkern, hi⟩, fun hk => absurd (hkern.trans hk.symm) hpl⟩
  | trapReturn hi ht =>
    obtain ⟨hk, ra, b, -, -, rfl⟩ := trapReturn_eq_ok_iff.1 ht
    exact ⟨fun hn => absurd hk hn, fun _ => .inl ⟨flagPL_returnFlags b, hi⟩⟩

/-- What an instruction run out of kernel mode leaves of the registers and of PL and IF. -/
theorem exec_user {i : Instr} {s t : State} (hs : s.pl ≠ kernelPL) (h : exec i s = .next t) :
    SameRegsBut [.eax, .ebx, .ecx, .esp, .eip, .eflags] s t
      ∧ (SameModeBits s t ∨ (flagPL t.flagsByte = kernelPL ∧ flagIF t.flagsByte = false)) := by
  cases execResult_of_exec h with
  | alu f _ hu =>
    obtain ⟨hr, hf⟩ := writeOp_user hs hu
    exact ⟨sameRegsBut_mono (sameRegsBut_append (sameRegsBut_append hr (setFlagsByte_frame _ _))
      (setEip_frame _ _)) (by decide), .inl (by simp [SameModeBits, hf])⟩
  | mov _ hu =>
    obtain ⟨hr, hf⟩ := writeOp_user hs hu
    exact ⟨sameRegsBut_mono (sameRegsBut_append hr (setEip_frame _ _)) (by decide),
      .inl (sameModeBits_of_flagsByte hf)⟩
  | pop _ hu =>
    obtain ⟨hr, hf⟩ := writeOp_user hs hu
    exact ⟨sameRegsBut_mono (sameRegsBut_append (sameRegsBut_append hr (setEsp_frame _ _))
      (setEip_frame _ _)) (by decide), .inl (sameModeBits_of_flagsByte hf)⟩
  | cmp f =>
    exact ⟨sameRegsBut_mono (sameRegsBut_append (setFlagsByte_frame s _) (setEip_frame _ _)) (by decide),
      .inl (by simp [SameModeBits])⟩
  | eip a =>
    exact ⟨sameRegsBut_mono (setEip_frame s a) (by decide), .inl (sameModeBits_of_flagsByte rfl)⟩
  | push a hu =>
    obtain ⟨hr, -, hf⟩ := push32_frame hu
    exact ⟨sameRegsBut_mono (sameRegsBut_append hr (setEip_frame _ a)) (by decide),
      .inl (sameModeBits_of_flagsByte hf)⟩
  | ret a =>
    exact ⟨sameRegsBut_mono (sameRegsBut_append (setEsp_frame s _) (setEip_frame _ a)) (by decide),
      .inl (sameModeBits_of_flagsByte rfl)⟩
  | trapEnter _ ht =>
    obtain ⟨hr, -, hf⟩ := trapEnter_frame ht
    exact ⟨sameRegsBut_mono hr (by decide), .inr (by rw [hf]; exact ⟨flagPL_enterKernel s, flagIF_enterKernel s⟩)⟩
  | pushf hk | popf _ hk | setIF _ hk => exact absurd hk hs
  | trapReturn _ ht => exact absurd (trapReturn_eq_ok_iff.1 ht).1 hs

/-- An operand or stack write leaves EIR to the fetch: no instruction run out of kernel mode changes it. -/
theorem exec_user_eir {i : Instr} {s t : State} (hs : s.pl ≠ kernelPL) (h : exec i s = .next t) : t.eir = s.eir :=
  (exec_user hs h).1 .eir (by decide)

/-- Settles O55: the fetch writes EIR, and the instruction runs out of kernel mode. -/
theorem userStepLeavesPrivilegedState : Obligations.UserStepLeavesPrivilegedState := by
  intro s t hs h
  obtain ⟨w0, i, h0, -, hx⟩ := step_eq_next.1 h
  have hs' : (fetched s w0).pl ≠ kernelPL := hs
  obtain ⟨hregs, hmode⟩ := exec_user hs' hx
  have heir : t.eir = w0 := exec_user_eir hs' hx
  refine ⟨?regs, (keepsWf_step h).2, ?fetch, hmode⟩
  case regs =>
    have hfetch : SameRegsBut [.eir] s (fetched s w0) := fun r hr => fetched_getReg s w0 fun e => hr (by simp [e])
    exact sameRegsBut_mono (sameRegsBut_append hfetch hregs) (by decide)
  case fetch => rw [heir]; exact h0

/-- A page user mode may write through: its entry lies in the RAM, is present, writable and not kernel-only. -/
def UserWritablePage (s : State) (va : Word) : Prop :=
  pteAddr s va + 3 ≤ s.capacity.toNat ∧ ptePresent (s.ram.readWord (pteAddr s va)) = true
    ∧ pteWritable (s.ram.readWord (pteAddr s va)) = true ∧ pteKernelOnly (s.ram.readWord (pteAddr s va)) = false

/-- The physical address the page table gives a virtual one (R82). -/
def framePlusOffset (s : State) (va : Word) : Nat :=
  (ptePfn (s.ram.readWord (pteAddr s va)) ++ pageOffset va).toNat

/-- A write translated in paged mode out of kernel mode goes through a page user mode may write (R81). -/
theorem translate_user_write {s : State} {va : Word} {pa : Nat} (hpg : s.pg = true) (hs : s.pl ≠ kernelPL)
    (h : mmuTranslate s va .write = .ok pa) : UserWritablePage s va ∧ pa = framePlusOffset s va := by
  obtain ⟨hb, hp, hperm, rfl⟩ := (translate_paged_eq_ok hpg).1 h
  have hbits : pteKernelOnly (s.ram.readWord (pteAddr s va)) = false
      ∧ pteWritable (s.ram.readWord (pteAddr s va)) = true := by simpa [permitted, hs] using hperm
  obtain ⟨hk, hw⟩ := hbits
  exact ⟨⟨hb, hp, hw, hk⟩, rfl⟩

/-- A byte that differs after a word write is one of its four. -/
theorem mem_of_read_writeWord_ne {m : Memory} {pa x : Nat} {v : Word}
    (h : (m.writeWord pa v).read x ≠ m.read x) : pa ≤ x ∧ x < pa + 4 := by
  by_contra hn
  exact h (read_writeWord_other m v (by omega))

/-- A byte changed by a write through the MMU out of kernel mode lies in a page user mode may write. -/
theorem user_memWrite32 {s u : State} {va v : Word} {x : Nat} (hpg : s.pg = true) (hs : s.pl ≠ kernelPL)
    (h : memWrite32 s va v = .ok u) (hx : u.ram.read x ≠ s.ram.read x) :
    UserWritablePage s va ∧ framePlusOffset s va ≤ x ∧ x < framePlusOffset s va + 4 := by
  obtain ⟨pa, hpa, -, rfl⟩ := memWrite32_eq_ok.1 h
  obtain ⟨hpage, rfl⟩ := translate_user_write hpg hs hpa
  exact ⟨hpage, mem_of_read_writeWord_ne hx⟩

theorem user_writeOp {s u : State} {op : Operand} {v : Word} {x : Nat} (hpg : s.pg = true) (hs : s.pl ≠ kernelPL)
    (h : writeOp s op v = .ok u) (hx : u.ram.read x ≠ s.ram.read x) :
    ∃ va, UserWritablePage s va ∧ framePlusOffset s va ≤ x ∧ x < framePlusOffset s va + 4 := by
  rcases writeOp_eq_ok.1 h with ⟨c, -, h1⟩ | ⟨-, a, -, h1⟩
  · obtain ⟨r, -, -, -, rfl⟩ := regWrite_eq_ok.1 h1
    exact absurd (by rw [setReg_ram]) hx
  · exact ⟨a, user_memWrite32 hpg hs h1 hx⟩

/-- A byte changed by an instruction that starts and ends out of kernel mode lies in a page user mode may
write. -/
theorem user_exec {i : Instr} {s t : State} {x : Nat} (hpg : s.pg = true) (hs : s.pl ≠ kernelPL)
    (h : exec i s = .next t) (ht : t.pl ≠ kernelPL) (hx : t.ram.read x ≠ s.ram.read x) :
    ∃ va, UserWritablePage s va ∧ framePlusOffset s va ≤ x ∧ x < framePlusOffset s va + 4 := by
  cases execResult_of_exec h with
  | alu f _ hu | mov _ hu | pop _ hu => exact user_writeOp hpg hs hu hx
  | push a hu => exact ⟨_, user_memWrite32 (s := s.setEsp (s.esp - 4#32)) hpg hs hu hx⟩
  | cmp | eip | ret => exact absurd rfl hx
  | pushf hk | popf _ hk | setIF _ hk => exact absurd hk hs
  | trapEnter _ he => exact absurd ((pl_congr (trapEnter_frame he).2.2).trans (enterKernel_pl s)) ht
  | trapReturn _ he => exact absurd (trapReturn_eq_ok_iff.1 he).1 hs

/-- Settles O56: the fetch leaves the RAM and the page table's place, and the instruction is `user_exec`. -/
theorem userStepWritesOnlyUserWritablePages : Obligations.UserStepWritesOnlyUserWritablePages := by
  intro s t x hpg hs h ht hx
  obtain ⟨w0, i, -, -, hrun⟩ := step_eq_next.1 h
  obtain ⟨va, ⟨hb, hp, hw, hk⟩, hlo, hhi⟩ := user_exec (s := fetched s w0) hpg hs hrun ht hx
  exact ⟨va, hb, hp, hw, hk, hlo, hhi⟩

end Sys2Proof.Machine
end

section
/-! The fields of word 0 (30 R101): what an encoded word's fields are, what a field reads of any word, and that
the opcode tables and the operand fields are one-to-one. -/

namespace Sys2Proof

/-- `slot1`, `w0[17:9]`, mode and type of the first operand together. -/
def fieldSlot1 (w0 : Word) : BitVec 9 := w0.extractLsb' 9 9
/-- `slot2`, `w0[8:0]`, mode and type of the second operand together. -/
def fieldSlot2 (w0 : Word) : BitVec 9 := w0.extractLsb' 0 9

/-- A slot is its mode above its type. -/
theorem fieldSlot1_eq (w0 : Word) : fieldSlot1 w0 = fieldMode1 w0 ++ fieldOtype1 w0 := by
  refine BitVec.eq_of_getLsbD_eq fun i hi => ?_
  simp only [fieldSlot1, fieldMode1, fieldOtype1, BitVec.getLsbD_append, BitVec.getLsbD_extractLsb']
  interval_cases i <;> simp

theorem fieldSlot2_eq (w0 : Word) : fieldSlot2 w0 = fieldMode2 w0 ++ fieldOtype2 w0 := by
  refine BitVec.eq_of_getLsbD_eq fun i hi => ?_
  simp only [fieldSlot2, fieldMode2, fieldOtype2, BitVec.getLsbD_append, BitVec.getLsbD_extractLsb']
  interval_cases i <;> simp

theorem fieldMode1_eq (w0 : Word) : fieldMode1 w0 = (fieldSlot1 w0).extractLsb' 7 2 := by
  rw [fieldSlot1_eq]
  exact (BitVec.extractLsb'_append_eq_left).symm

theorem fieldOtype1_eq (w0 : Word) : fieldOtype1 w0 = (fieldSlot1 w0).extractLsb' 0 7 := by
  rw [fieldSlot1_eq]
  exact (BitVec.extractLsb'_append_eq_right).symm

theorem fieldMode2_eq (w0 : Word) : fieldMode2 w0 = (fieldSlot2 w0).extractLsb' 7 2 := by
  rw [fieldSlot2_eq]
  exact (BitVec.extractLsb'_append_eq_left).symm

theorem fieldOtype2_eq (w0 : Word) : fieldOtype2 w0 = (fieldSlot2 w0).extractLsb' 0 7 := by
  rw [fieldSlot2_eq]
  exact (BitVec.extractLsb'_append_eq_right).symm

section EncodedWord

variable (type : BitVec 3) (opcode : BitVec 7) (k1 k2 : SlotKind)

/-- A bit of an encoded word, by the field it lies in (R101). -/
theorem getLsbD_encodeWord0 (i : Nat) :
    (encodeWord0 type opcode k1 k2).getLsbD i =
      if i < 9 then k2.field.getLsbD i else if i - 9 < 9 then k1.field.getLsbD (i - 9)
      else if i - 9 - 9 < 2 then (0b11#2).getLsbD (i - 9 - 9)
      else if i - 9 - 9 - 2 < 7 then opcode.getLsbD (i - 9 - 9 - 2)
      else if i - 9 - 9 - 2 - 7 < 2 then (0b11#2).getLsbD (i - 9 - 9 - 2 - 7)
      else type.getLsbD (i - 9 - 9 - 2 - 7 - 2) := by
  simp only [encodeWord0, BitVec.getLsbD_append]

@[simp] theorem fieldType_encodeWord0 : fieldType (encodeWord0 type opcode k1 k2) = type := by
  refine BitVec.eq_of_getLsbD_eq fun i hi => ?_
  rw [fieldType, BitVec.getLsbD_extractLsb', getLsbD_encodeWord0]
  interval_cases i <;> simp

@[simp] theorem fieldOpcode_encodeWord0 : fieldOpcode (encodeWord0 type opcode k1 k2) = opcode := by
  refine BitVec.eq_of_getLsbD_eq fun i hi => ?_
  rw [fieldOpcode, BitVec.getLsbD_extractLsb', getLsbD_encodeWord0]
  interval_cases i <;> simp

@[simp] theorem fieldSlot1_encodeWord0 : fieldSlot1 (encodeWord0 type opcode k1 k2) = k1.field := by
  refine BitVec.eq_of_getLsbD_eq fun i hi => ?_
  rw [fieldSlot1, BitVec.getLsbD_extractLsb', getLsbD_encodeWord0]
  interval_cases i <;> simp

@[simp] theorem fieldSlot2_encodeWord0 : fieldSlot2 (encodeWord0 type opcode k1 k2) = k2.field := by
  refine BitVec.eq_of_getLsbD_eq fun i hi => ?_
  rw [fieldSlot2, BitVec.getLsbD_extractLsb', getLsbD_encodeWord0]
  interval_cases i <;> simp

/-- The delimiters of an encoded word are ones, so it is not the halt word (R102, R116). -/
theorem encodeWord0_ne_zero : encodeWord0 type opcode k1 k2 ≠ 0#32 := by
  intro h
  have hbit := getLsbD_encodeWord0 type opcode k1 k2 18
  simp [h] at hbit

/-- The slot decoder reads back the field the encoder writes (R107). -/
theorem decodeSlot_field (k : SlotKind) :
    decodeSlot (k.field.extractLsb' 7 2) (k.field.extractLsb' 0 7) = .ok k := by
  cases k <;> rfl

@[simp] theorem decodeSlot1_encodeWord0 : decodeSlot1 (encodeWord0 type opcode k1 k2) = .ok k1 := by
  rw [decodeSlot1, fieldMode1_eq, fieldOtype1_eq, fieldSlot1_encodeWord0, decodeSlot_field]

@[simp] theorem decodeSlot2_encodeWord0 : decodeSlot2 (encodeWord0 type opcode k1 k2) = .ok k2 := by
  rw [decodeSlot2, fieldMode2_eq, fieldOtype2_eq, fieldSlot2_encodeWord0, decodeSlot_field]

end EncodedWord

/-- Any word with its delimiters set to ones is the encoded word of its fields (R101, R102). -/
theorem or_delimiters_eq (w0 : Word) {k1 k2 : SlotKind} (h1 : k1.field = fieldSlot1 w0)
    (h2 : k2.field = fieldSlot2 w0) :
    encodeWord0 (fieldType w0) (fieldOpcode w0) k1 k2 = w0 ||| 0x180C0000#32 := by
  refine BitVec.eq_of_getLsbD_eq fun i hi => ?_
  rw [getLsbD_encodeWord0, h1, h2]
  simp only [fieldType, fieldOpcode, fieldSlot1, fieldSlot2, BitVec.getLsbD_extractLsb', BitVec.getLsbD_or]
  interval_cases i <;> simp

/-- A legal slot's field is its mode above its type (R105 to R107). -/
theorem field_of_decodeSlot {m : BitVec 2} {o : BitVec 7} {k : SlotKind} (h : decodeSlot m o = .ok k) :
    k.field = m ++ o := by
  unfold decodeSlot at h
  split_ifs at h <;> cases h <;> subst_vars <;> rfl

theorem field_of_decodeSlot1 {w0 : Word} {k : SlotKind} (h : decodeSlot1 w0 = .ok k) : k.field = fieldSlot1 w0 := by
  rw [fieldSlot1_eq, field_of_decodeSlot h]

theorem field_of_decodeSlot2 {w0 : Word} {k : SlotKind} (h : decodeSlot2 w0 = .ok k) : k.field = fieldSlot2 w0 := by
  rw [fieldSlot2_eq, field_of_decodeSlot h]

@[simp] theorem operand_kind (k : SlotKind) (v : Word) : (k.operand v).kind = k := by cases k <;> rfl

@[simp] theorem kind_operand_value (op : Operand) : op.kind.operand op.value = op := by cases op <;> rfl

theorem operand_eq_no {k : SlotKind} {v : Word} : k.operand v = .no ↔ k = .no := by
  cases k <;> simp [SlotKind.operand]

/-- An absent slot's value word is zero, a present one's is kept (R112). -/
theorem operand_value (k : SlotKind) (v : Word) :
    (k.operand v).value = if k.operand v = .no then 0#32 else v := by
  cases k <;> rfl

/-- The instructions of the table carry the operands they are given, under the type and opcode of the
table's entry (R103, R113 to R115). -/
def EntryOf (type : BitVec 3) (opcode : BitVec 7) (mk : Operand → Operand → Instr) : Prop :=
  ∀ a b, (mk a b).head = some (type, opcode) ∧ (mk a b).slots = (a, b)

theorem entryOf_of_toNat {type t : BitVec 3} {opcode o : BitVec 7} {mk : Operand → Operand → Instr}
    (ht : type.toNat = t.toNat) (ho : opcode.toNat = o.toNat) (h : EntryOf t o mk) : EntryOf type opcode mk := by
  rw [BitVec.eq_of_toNat_eq ht, BitVec.eq_of_toNat_eq ho]
  exact h

theorem entryOf_rTable {type : BitVec 3} {opcode : BitVec 7} {mk : Operand → Operand → Instr}
    (ht : type.toNat = (4#3).toNat) (h : rTable opcode.toNat = some mk) : EntryOf type opcode mk := by
  unfold rTable at h
  split at h <;> cases h <;> exact entryOf_of_toNat (o := BitVec.ofNat 7 _) ht ‹_› fun _ _ => ⟨rfl, rfl⟩

theorem entryOf_iTable {type : BitVec 3} {opcode : BitVec 7} {mk : Operand → Operand → Instr}
    (ht : type.toNat = (2#3).toNat) (h : iTable opcode.toNat = some mk) : EntryOf type opcode mk := by
  unfold iTable at h
  split at h <;> cases h <;> exact entryOf_of_toNat (o := BitVec.ofNat 7 _) ht ‹_› fun _ _ => ⟨rfl, rfl⟩

theorem entryOf_jTable {type : BitVec 3} {opcode : BitVec 7} {mk : Operand → Operand → Instr}
    (ht : type.toNat = (1#3).toNat) (h : jTable opcode.toNat = some mk) : EntryOf type opcode mk := by
  unfold jTable at h
  split at h <;> cases h <;> exact entryOf_of_toNat (o := BitVec.ofNat 7 _) ht ‹_› fun _ _ => ⟨rfl, rfl⟩

theorem entryOf_opcodeTable {type : BitVec 3} {opcode : BitVec 7} {mk : Operand → Operand → Instr}
    (h : opcodeTable type opcode = some mk) : EntryOf type opcode mk := by
  unfold opcodeTable at h
  split at h
  case h_1 ht => exact entryOf_rTable ht h
  case h_2 ht => exact entryOf_iTable ht h
  case h_3 ht => exact entryOf_jTable ht h
  case h_4 => cases h

end Sys2Proof
end

section
/-! Decoding and encoding (30 R101 to R119, R124): the two are inverse up to delimiters, absent value words and
the aliases JE and JNE; which words are no instruction. -/

namespace Sys2Proof

/-- Everything `decodeWords` does when it answers: the halt word, or type and opcode, slot 1, slot 2. -/
theorem decodeWords_eq_ok {w0 w1 w2 : Word} {i : Instr} :
    decodeWords w0 w1 w2 = .ok i ↔
      (w0 = 0#32 ∧ i = .haltWord)
        ∨ (w0 ≠ 0#32 ∧ ∃ mk k1 k2, decodeOpcode w0 = .ok mk ∧ decodeSlot1 w0 = .ok k1
          ∧ decodeSlot2 w0 = .ok k2 ∧ i = mk (k1.operand w1) (k2.operand w2)) := by
  unfold decodeWords
  by_cases h : w0 = 0#32
  · simp [h, Machine.except_ok_eq_ok, -Except.ok.injEq]
  · simp [h, Machine.except_bind_eq_ok, Machine.except_ok_eq_ok, -Except.ok.injEq]

/-- Everything `decodeWords` does when it does not answer: the first error of opcode, slot 1, slot 2. -/
theorem decodeWords_eq_error {w0 w1 w2 : Word} {e : DecodeError} :
    decodeWords w0 w1 w2 = .error e ↔
      w0 ≠ 0#32 ∧ (decodeOpcode w0 = .error e
        ∨ ∃ mk, decodeOpcode w0 = .ok mk
          ∧ (decodeSlot1 w0 = .error e ∨ ∃ k, decodeSlot1 w0 = .ok k ∧ decodeSlot2 w0 = .error e)) := by
  unfold decodeWords
  by_cases h : w0 = 0#32
  · simp [h]
  · simp [h, Machine.except_bind_eq_error]

theorem decodeOpcode_eq_ok {w0 : Word} {mk : Operand → Operand → Instr} :
    decodeOpcode w0 = .ok mk ↔ opcodeTable (fieldType w0) (fieldOpcode w0) = some mk := by
  unfold decodeOpcode
  split <;> simp_all

theorem decodeOpcode_eq_error {w0 : Word} {e : DecodeError} :
    decodeOpcode w0 = .error e ↔
      e = .unrecognizedInstruction ∧ opcodeTable (fieldType w0) (fieldOpcode w0) = none := by
  unfold decodeOpcode
  split <;> simp_all [eq_comm]

theorem entryOf_decodeOpcode {w0 : Word} {mk : Operand → Operand → Instr} (h : decodeOpcode w0 = .ok mk) :
    EntryOf (fieldType w0) (fieldOpcode w0) mk :=
  entryOf_opcodeTable (decodeOpcode_eq_ok.1 h)

/-- Only the halt word has no type and opcode (R116). -/
theorem exists_head {i : Instr} (h : i ≠ .haltWord) : ∃ type opcode, i.head = some (type, opcode) := by
  cases i with
  | haltWord => exact absurd rfl h
  | _ => exact ⟨_, _, rfl⟩

theorem encode_of_head {i : Instr} {type : BitVec 3} {opcode : BitVec 7} (h : i.head = some (type, opcode)) :
    encode i = (encodeWord0 type opcode i.slots.1.kind i.slots.2.kind, i.slots.1.value, i.slots.2.value) := by
  simp only [encode, h]

theorem encode_ne_zero {i : Instr} (h : i ≠ .haltWord) : (encode i).1 ≠ 0#32 := by
  obtain ⟨type, opcode, hh⟩ := exists_head h
  rw [encode_of_head hh]
  exact encodeWord0_ne_zero _ _ _ _

/-- The encoder's entry for each instruction is in the decoder's tables (R103, R104, R124). -/
theorem opcodeTable_head (i : Instr) : Laws.OpcodeTableAgrees.Statement i := by
  cases i with
  | haltWord => exact Laws.OpcodeTableAgrees.haltWord
  | _ => exact Laws.OpcodeTableAgrees.of_table rfl rfl rfl

theorem decodeWords_encode (i : Instr) : decodeWords (encode i).1 (encode i).2.1 (encode i).2.2 = .ok i.canonical := by
  by_cases hi : i = .haltWord
  · rw [hi]
    rfl
  · obtain ⟨type, opcode, hh⟩ := exists_head hi
    obtain ⟨mk, hmk, hcanon⟩ := opcodeTable_head i type opcode hh
    refine decodeWords_eq_ok.2 (.inr ⟨encode_ne_zero hi, mk, i.slots.1.kind, i.slots.2.kind, ?_⟩)
    simp [encode_of_head hh, decodeOpcode_eq_ok, hmk, hcanon]

theorem wordOfBytes_slices (w : Word) :
    wordOfBytes (w.extractLsb' 24 8) (w.extractLsb' 16 8) (w.extractLsb' 8 8) (w.extractLsb' 0 8) = w :=
  Machine.word_of_slices w

/-- The front of a list of bytes that begins with three words, the first not the halt word, is decoded from
those words (R119). -/
theorem decode_wordBytes {w0 : Word} (h : w0 ≠ 0#32) (w1 w2 : Word) (rest : List Byte) {i : Instr}
    (hi : decodeWords w0 w1 w2 = .ok i) :
    decode (wordBytes w0 ++ wordBytes w1 ++ wordBytes w2 ++ rest) = .ok (i, rest) := by
  simp [decode, wordBytes, wordOfBytes_slices, h, hi]

/-- Settles O1: the words of every instruction decode to it, and so do its bytes. -/
theorem decodeOfEncodeIsTheInstruction : Obligations.DecodeOfEncodeIsTheInstruction := by
  refine ⟨decodeWords_encode, ?bytes, fun _ => rfl, ?canonical⟩
  case bytes =>
    intro i rest hi
    exact decode_wordBytes (encode_ne_zero hi) _ _ rest (decodeWords_encode i)
  case canonical =>
    intro i hi
    cases i with
    | je a b => exact absurd rfl (hi a b).1
    | jne a b => exact absurd rfl (hi a b).2
    | _ => rfl

/-- Settles O2: the encoder writes the type, opcode and slots the decoder found. -/
theorem encodeOfDecodeIsTheWords : Obligations.EncodeOfDecodeIsTheWords := by
  intro w0 w1 w2 i h hi
  obtain ⟨-, rfl⟩ | ⟨-, mk, k1, k2, hmk, h1, h2, rfl⟩ := decodeWords_eq_ok.1 h
  · exact absurd rfl hi
  · obtain ⟨hhead, hslots⟩ := entryOf_decodeOpcode hmk (k1.operand w1) (k2.operand w2)
    rw [encode_of_head hhead, hslots]
    refine ⟨?_, operand_value k1 w1, operand_value k2 w2⟩
    rw [operand_kind, operand_kind]
    exact or_delimiters_eq w0 (field_of_decodeSlot1 h1) (field_of_decodeSlot2 h2)

/-- A field that a mask covers with ones reads the same of two words that agree under the mask. -/
theorem extract_eq_of_mask {w w' mask : Word} {start len : Nat} (hw : w &&& mask = w' &&& mask)
    (hm : mask.extractLsb' start len = BitVec.allOnes len) :
    w.extractLsb' start len = w'.extractLsb' start len := by
  have h := congrArg (BitVec.extractLsb' start len) hw
  simpa only [BitVec.extractLsb'_and, hm, BitVec.and_allOnes] using h

/-- The decoder looks at word 0 only through the halt test and the six fields (R101, R102). -/
theorem decodeWords_congr_fields {w0 w0' : Word} (w1 w2 : Word) (hz : w0 ≠ 0#32) (hz' : w0' ≠ 0#32)
    (ht : fieldType w0 = fieldType w0') (ho : fieldOpcode w0 = fieldOpcode w0')
    (hm1 : fieldMode1 w0 = fieldMode1 w0') (ho1 : fieldOtype1 w0 = fieldOtype1 w0')
    (hm2 : fieldMode2 w0 = fieldMode2 w0') (ho2 : fieldOtype2 w0 = fieldOtype2 w0') :
    decodeWords w0 w1 w2 = decodeWords w0' w1 w2 := by
  simp only [decodeWords, decodeOpcode, decodeSlot1, decodeSlot2, if_neg hz, if_neg hz', ht, ho, hm1, ho1, hm2, ho2]

theorem decodeWords_congr_masked {w0 w0' : Word} (w1 w2 : Word) (hz : w0 ≠ 0#32) (hz' : w0' ≠ 0#32)
    (h : w0 &&& 0xE7F3FFFF#32 = w0' &&& 0xE7F3FFFF#32) : decodeWords w0 w1 w2 = decodeWords w0' w1 w2 :=
  decodeWords_congr_fields w1 w2 hz hz' (extract_eq_of_mask h (by decide)) (extract_eq_of_mask h (by decide))
    (extract_eq_of_mask h (by decide)) (extract_eq_of_mask h (by decide)) (extract_eq_of_mask h (by decide))
    (extract_eq_of_mask h (by decide))

/-- An absent slot's value word is not looked at (R112). -/
theorem decodeWords_absent_slot1 {w0 : Word} (w1 w1' w2 : Word) (h : decodeSlot1 w0 = .ok .no) :
    decodeWords w0 w1 w2 = decodeWords w0 w1' w2 := by
  simp only [decodeWords, h]
  rfl

theorem decodeWords_absent_slot2 {w0 : Word} (w1 w2 w2' : Word) (h : decodeSlot2 w0 = .ok .no) :
    decodeWords w0 w1 w2 = decodeWords w0 w1 w2' := by
  simp only [decodeWords, h]
  rfl

/-- No entry of the opcode tables is the halt word. -/
theorem ne_haltWord_of_entryOf {type : BitVec 3} {opcode : BitVec 7} {mk : Operand → Operand → Instr}
    (h : EntryOf type opcode mk) (a b : Operand) : mk a b ≠ .haltWord := by
  intro heq
  have hhead := (h a b).1
  rw [heq] at hhead
  cases hhead

theorem decodeWords_eq_haltWord {w0 w1 w2 : Word} : decodeWords w0 w1 w2 = .ok .haltWord ↔ w0 = 0#32 := by
  rw [decodeWords_eq_ok]
  constructor
  · rintro (⟨h, -⟩ | ⟨-, mk, k1, k2, hmk, -, -, heq⟩)
    · exact h
    · exact absurd heq.symm (ne_haltWord_of_entryOf (entryOf_decodeOpcode hmk) _ _)
  · exact fun h => .inl ⟨h, rfl⟩

/-- Settles O3: the mask covers all six fields, absent slots drop their word, and halt is the zero word. -/
theorem decodeIgnoresDelimitersButHaltIsZero : Obligations.DecodeIgnoresDelimitersButHaltIsZero :=
  ⟨fun _ _ w1 w2 hz hz' h => decodeWords_congr_masked w1 w2 hz hz' h,
    fun _ w1 w1' w2 h => decodeWords_absent_slot1 w1 w1' w2 h,
    fun _ w1 w2 w2' h => decodeWords_absent_slot2 w1 w2 w2' h,
    fun _ _ _ => decodeWords_eq_haltWord, fun _ h => encode_ne_zero h⟩

theorem rTable_eq_none {n : Nat} : rTable n = none ↔ ¬ n < 14 := by
  by_cases h : n < 14
  · interval_cases n <;> simp [rTable]
  · obtain ⟨m, rfl⟩ := Nat.exists_eq_add_of_le' (Nat.le_of_not_lt h)
    simp [rTable]

theorem iTable_eq_none {n : Nat} : iTable n = none ↔ ¬ n < 8 := by
  by_cases h : n < 8
  · interval_cases n <;> simp [iTable]
  · obtain ⟨m, rfl⟩ := Nat.exists_eq_add_of_le' (Nat.le_of_not_lt h)
    simp [iTable]

theorem jTable_eq_none {n : Nat} : jTable n = none ↔ ¬ n < 13 := by
  by_cases h : n < 13
  · interval_cases n <;> simp [jTable]
  · obtain ⟨m, rfl⟩ := Nat.exists_eq_add_of_le' (Nat.le_of_not_lt h)
    simp [jTable]

/-- The assigned opcodes: 14 of type R, 8 of type I, 13 of type J (R113 to R115). -/
theorem opcodeTable_eq_none {type : BitVec 3} {opcode : BitVec 7} :
    opcodeTable type opcode = none ↔
      ¬ ((type = 4#3 ∧ opcode.toNat < 14) ∨ (type = 2#3 ∧ opcode.toNat < 8)
        ∨ (type = 1#3 ∧ opcode.toNat < 13)) := by
  have toNat_iff (n : Nat) (hn : n < 8) : type = BitVec.ofNat 3 n ↔ type.toNat = n := by
    rw [← BitVec.toNat_inj, BitVec.toNat_ofNat, Nat.mod_eq_of_lt hn]
  rw [toNat_iff 4 (by decide), toNat_iff 2 (by decide), toNat_iff 1 (by decide)]
  unfold opcodeTable
  split
  case h_1 ht => simp [ht, rTable_eq_none]
  case h_2 ht => simp [ht, iTable_eq_none]
  case h_3 ht => simp [ht, jTable_eq_none]
  case h_4 h4 h2 h1 =>
    refine iff_of_true rfl ?_
    rintro (⟨h, -⟩ | ⟨h, -⟩ | ⟨h, -⟩)
    exacts [h4 h, h2 h, h1 h]

/-- A slot is rejected for its type before its mode (R107). -/
theorem decodeSlot_eq_unrecognizedOperandType {m : BitVec 2} {o : BitVec 7} :
    decodeSlot m o = .error .unrecognizedOperandType ↔ o ∉ [0x00#7, 0x50#7, 0x60#7, 0x70#7] := by
  unfold decodeSlot
  split_ifs <;> simp_all

theorem decodeSlot_eq_unrecognizedAddressingMode {m : BitVec 2} {o : BitVec 7} :
    decodeSlot m o = .error .unrecognizedAddressingMode ↔
      o ∈ [0x00#7, 0x50#7, 0x60#7, 0x70#7]
        ∧ (m, o) ∉ [(0#2, 0x00#7), (2#2, 0x50#7), (2#2, 0x70#7), (2#2, 0x60#7), (3#2, 0x60#7)] := by
  unfold decodeSlot
  split_ifs <;> simp_all

/-- The two errors a slot can have (R107). -/
theorem slot_error_of_decodeSlot {m : BitVec 2} {o : BitVec 7} {e : DecodeError} (h : decodeSlot m o = .error e) :
    e = .unrecognizedOperandType ∨ e = .unrecognizedAddressingMode := by
  unfold decodeSlot at h
  split_ifs at h <;> cases h <;> simp

theorem decodeWords_eq_unrecognizedInstruction {w0 w1 w2 : Word} :
    decodeWords w0 w1 w2 = .error .unrecognizedInstruction ↔
      w0 ≠ 0#32 ∧ opcodeTable (fieldType w0) (fieldOpcode w0) = none := by
  have slot_ne (m : BitVec 2) (o : BitVec 7) : decodeSlot m o ≠ .error .unrecognizedInstruction := fun h => by
    obtain h | h := slot_error_of_decodeSlot h <;> cases h
  simp [decodeWords_eq_error, decodeOpcode_eq_error, decodeSlot1, decodeSlot2, slot_ne]

/-- Settles O4: the errors of the tables and of the slots, in the order the decoder meets them. -/
theorem decoderRejectsExactlyTheIllegalWords : Obligations.DecoderRejectsExactlyTheIllegalWords := by
  refine ⟨?opcode, fun _ _ => decodeSlot_eq_unrecognizedOperandType,
    fun _ _ => decodeSlot_eq_unrecognizedAddressingMode, ?slots⟩
  case opcode =>
    intro w0 w1 w2
    rw [decodeWords_eq_unrecognizedInstruction, opcodeTable_eq_none]
  case slots =>
    intro w0 w1 w2 mk e hz hmk
    simp [decodeWords_eq_error, hz, hmk]

/-- Settles O5: the decoder run on each printed word. -/
theorem printedWordsDecode : Obligations.PrintedWordsDecode :=
  ⟨rfl, rfl, rfl, rfl, rfl, rfl, rfl, rfl⟩

end Sys2Proof
end

section
/-! The cycle (40 R130 to R134): one equation per way the fetch of the operand words goes, the faults in the order
they are met, and that `step` and the host's `cycle` tell the same story. -/

namespace Sys2Proof.Machine

/-! ### The operand words -/

theorem fetchOperand_error (s : State) (e : DecodeError) (offset : Word) :
    fetchOperand s (.error e) offset = .error (faultOfDecode e) := rfl

/-- A present slot's word is fetched at its offset from EIP (R134). -/
theorem fetchOperand_present (s : State) {k : SlotKind} (hk : k ≠ .no) (offset : Word) :
    fetchOperand s (.ok k) offset = (memFetch s (s.eip + offset) >>= fun v => .ok (k.operand v)) := by
  cases k with
  | no => exact absurd rfl hk
  | _ => rfl

theorem fetchOperand_of_memFetch {s : State} {k : SlotKind} {offset v : Word}
    (h : k.operand v ≠ .no → memFetch s (s.eip + offset) = .ok v) :
    fetchOperand s (.ok k) offset = .ok (k.operand v) := by
  by_cases hk : k = .no
  · rw [hk]
    rfl
  · rw [fetchOperand_present s hk, h (mt operand_eq_no.1 hk), except_bind_ok]

theorem fetchOperand_present_error {s : State} {k : SlotKind} {offset : Word} {f : Fault} (hk : k ≠ .no)
    (h : memFetch s (s.eip + offset) = .error f) : fetchOperand s (.ok k) offset = .error f := by
  rw [fetchOperand_present s hk, h, except_bind_error]

/-- A legal slot answers as soon as its word, if it has one, can be fetched. -/
theorem fetchOperand_ok {s : State} {k : SlotKind} {offset : Word}
    (h : k ≠ .no → ∃ v, memFetch s (s.eip + offset) = .ok v) : ∃ op, fetchOperand s (.ok k) offset = .ok op := by
  by_cases hk : k = .no
  · exact ⟨.no, by rw [hk]; rfl⟩
  · obtain ⟨v, hv⟩ := h hk
    exact ⟨k.operand v, by rw [fetchOperand_present s hk, hv, except_bind_ok]⟩

/-! ### The rest of an instruction -/

theorem ofDecode_eq_ok {α : Type} {r : Except DecodeError α} {x : α} : ofDecode r = .ok x ↔ r = .ok x := by
  cases r <;> simp [ofDecode]

theorem fetchInstr_zero (s : State) : fetchInstr s 0#32 = .ok .haltWord := rfl

theorem fetchInstr_of_ne_zero (s : State) {w0 : Word} (hz : w0 ≠ 0#32) :
    fetchInstr s w0 = (ofDecode (decodeOpcode w0) >>= fun mk =>
      fetchOperand s (decodeSlot1 w0) 4#32 >>= fun op1 =>
      fetchOperand s (decodeSlot2 w0) 8#32 >>= fun op2 => .ok (mk op1 op2)) := if_neg hz

section Fetch

variable {s : State} {w0 : Word} {mk : Operand → Operand → Instr} {f : Fault}

theorem fetchInstr_opcode_error {e : DecodeError} (hz : w0 ≠ 0#32) (h : decodeOpcode w0 = .error e) :
    fetchInstr s w0 = .error (faultOfDecode e) := by
  rw [fetchInstr_of_ne_zero s hz, h]
  rfl

theorem fetchInstr_slot1_error (hz : w0 ≠ 0#32) (hmk : decodeOpcode w0 = .ok mk)
    (h : fetchOperand s (decodeSlot1 w0) 4#32 = .error f) : fetchInstr s w0 = .error f := by
  rw [fetchInstr_of_ne_zero s hz, hmk, h]
  rfl

theorem fetchInstr_slot2_error {op1 : Operand} (hz : w0 ≠ 0#32) (hmk : decodeOpcode w0 = .ok mk)
    (h1 : fetchOperand s (decodeSlot1 w0) 4#32 = .ok op1)
    (h : fetchOperand s (decodeSlot2 w0) 8#32 = .error f) : fetchInstr s w0 = .error f := by
  rw [fetchInstr_of_ne_zero s hz, hmk, h1, h]
  rfl

theorem fetchInstr_ok {op1 op2 : Operand} (hz : w0 ≠ 0#32) (hmk : decodeOpcode w0 = .ok mk)
    (h1 : fetchOperand s (decodeSlot1 w0) 4#32 = .ok op1) (h2 : fetchOperand s (decodeSlot2 w0) 8#32 = .ok op2) :
    fetchInstr s w0 = .ok (mk op1 op2) := by
  rw [fetchInstr_of_ne_zero s hz, hmk, h1, h2]
  rfl

/-- Only the zero word is fetched as the halt word (R116). -/
theorem eq_zero_of_fetchInstr_haltWord (h : fetchInstr s w0 = .ok .haltWord) : w0 = 0#32 := by
  by_contra hz
  rw [fetchInstr_of_ne_zero s hz] at h
  simp only [except_bind_eq_ok, except_ok_eq_ok] at h
  obtain ⟨mk, hmk, op1, -, op2, -, heq⟩ := h
  exact ne_haltWord_of_entryOf (entryOf_decodeOpcode (ofDecode_eq_ok.1 hmk)) op1 op2 heq.symm

end Fetch

/-! ### The step -/

theorem step_of_fetchWord0_error {s : State} {f : Fault} (h : fetchWord0 s = .error f) : step s = .fault f := by
  simp only [step, h]

theorem step_of_fetchInstr_error {s : State} {w0 : Word} {f : Fault} (h0 : fetchWord0 s = .ok w0)
    (h : fetchInstr (fetched s w0) w0 = .error f) : step s = .fault f := by
  simp only [step, h0, h]

theorem step_of_fetchInstr_ok {s : State} {w0 : Word} {i : Instr} (h0 : fetchWord0 s = .ok w0)
    (h : fetchInstr (fetched s w0) w0 = .ok i) : step s = exec i (fetched s w0) := by
  simp only [step, h0, h]

/-- Settles O6: the words that decode to `i` are the words the fetch reads. -/
theorem stepRunsTheDecodedInstruction : Obligations.StepRunsTheDecodedInstruction := by
  intro s w0 w1 w2 i h0 hdec h1 h2
  refine step_of_fetchInstr_ok h0 ?_
  obtain ⟨rfl, rfl⟩ | ⟨hz, mk, k1, k2, hmk, hs1, hs2, rfl⟩ := decodeWords_eq_ok.1 hdec
  · rfl
  · rw [(entryOf_decodeOpcode hmk _ _).2] at h1 h2
    refine fetchInstr_ok hz hmk ?_ ?_
    · rw [hs1]
      exact fetchOperand_of_memFetch (s := fetched s w0) h1
    · rw [hs2]
      exact fetchOperand_of_memFetch (s := fetched s w0) h2

/-- The fault of a slot error has the error's own name (R274, R275). -/
theorem step_of_slot_error {s : State} {m : BitVec 2} {o : BitVec 7} {e : DecodeError}
    (h : decodeSlot m o = .error e) (hs : step s = .fault (faultOfDecode e)) :
    (e = .unrecognizedOperandType ∧ step s = .fault .unrecognizedOperandType)
      ∨ (e = .unrecognizedAddressingMode ∧ step s = .fault .unrecognizedAddressingMode) := by
  obtain rfl | rfl := slot_error_of_decodeSlot h
  · exact .inl ⟨rfl, hs⟩
  · exact .inr ⟨rfl, hs⟩

/-- Settles O7: each clause is the fetch stopped at one of its parts, the earlier ones having answered. -/
theorem stepReportsTheFirstFetchOrDecodeFault : Obligations.StepReportsTheFirstFetchOrDecodeFault := by
  refine ⟨fun _ _ h => step_of_fetchWord0_error h, ?opcode, ?slot1, ?word1, ?slot2, ?word2⟩
  case opcode =>
    intro s w0 h0 hz hop
    exact step_of_fetchInstr_error h0 (fetchInstr_opcode_error hz hop)
  case slot1 =>
    intro s w0 mk e h0 hz hmk h1
    refine step_of_slot_error h1 (step_of_fetchInstr_error h0 (fetchInstr_slot1_error hz hmk ?_))
    rw [h1, fetchOperand_error]
  case word1 =>
    intro s w0 mk k f h0 hz hmk h1 hk hf
    refine step_of_fetchInstr_error h0 (fetchInstr_slot1_error hz hmk ?_)
    rw [h1]
    exact fetchOperand_present_error (s := fetched s w0) hk hf
  case slot2 =>
    intro s w0 mk k1 e h0 hz hmk h1 hw1 h2
    obtain ⟨op1, hop1⟩ := fetchOperand_ok (s := fetched s w0) hw1
    refine step_of_slot_error h2 (step_of_fetchInstr_error h0 (fetchInstr_slot2_error hz hmk (h1 ▸ hop1) ?_))
    rw [h2, fetchOperand_error]
  case word2 =>
    intro s w0 mk k1 k2 f h0 hz hmk h1 hw1 h2 hk hf
    obtain ⟨op1, hop1⟩ := fetchOperand_ok (s := fetched s w0) hw1
    refine step_of_fetchInstr_error h0 (fetchInstr_slot2_error hz hmk (h1 ▸ hop1) ?_)
    rw [h2]
    exact fetchOperand_present_error (s := fetched s w0) hk hf

/-! ### Step and cycle -/

/-- No instruction is refused: every meaning is the outcome of an answer or a fault. -/
theorem exec_ne_refused (i : Instr) (s : State) (r : Refusal) : exec i s ≠ .refused r := by
  cases i with
  | nop | haltWord => exact nofun
  | _ => exact outcome_ne_refused _ r

/-- The host's cycle as the step sees it: a fault before or after word 0 is in EIR, a completed instruction,
or the halt word. -/
inductive CycleCase (s : State) : Prop where
  | fetchFault (f : Fault) : fetchWord0 s = .error f → cycle s = (.fault f, s) → step s = .fault f → CycleCase s
  | fault (w0 : Word) (f : Fault) : w0 ≠ 0#32 → fetchWord0 s = .ok w0 → cycle s = (.fault f, s.setEir w0) →
      step s = .fault f → CycleCase s
  | next (w0 : Word) (t : State) : w0 ≠ 0#32 → fetchWord0 s = .ok w0 → cycle s = (.next, t) → step s = .next t →
      CycleCase s
  | halt : fetchWord0 s = .ok 0#32 → cycle s = (.halt, s.setEir 0#32) → step s = .next (s.setEir 0#32) →
      CycleCase s

theorem cycle_halt {s : State} (h : fetchWord0 s = .ok 0#32) : cycle s = (.halt, s.setEir 0#32) :=
  cycle_of_fetchInstr_ok h (fetchInstr_zero _)

theorem step_halt {s : State} (h : fetchWord0 s = .ok 0#32) : step s = .next (s.setEir 0#32) :=
  step_of_fetchInstr_ok h (fetchInstr_zero _)

/-- Every cycle is one of the four. -/
theorem cycleCase (s : State) : CycleCase s := by
  cases h0 : fetchWord0 s with
  | error f => exact .fetchFault f h0 (cycle_of_fetchWord0_error h0) (step_of_fetchWord0_error h0)
  | ok w0 =>
    by_cases hz : w0 = 0#32
    · subst hz
      exact .halt h0 (cycle_halt h0) (step_halt h0)
    · cases hi : fetchInstr (fetched s w0) w0 with
      | error f =>
        exact .fault w0 f hz h0 (cycle_of_fetchInstr_error h0 hi) (step_of_fetchInstr_error h0 hi)
      | ok i =>
        have hc := cycle_of_fetchInstr_ok h0 hi
        have hs := step_of_fetchInstr_ok h0 hi
        have hne : i ≠ .haltWord := fun e => hz (eq_zero_of_fetchInstr_haltWord (e ▸ hi))
        unfold runDecoded at hc
        cases hx : exec i (fetched s w0) with
        | next t =>
          simp only [hx, if_neg hne] at hc
          exact .next w0 t hz h0 hc (hs.trans hx)
        | fault f =>
          simp only [hx] at hc
          exact .fault w0 f hz h0 hc (hs.trans hx)
        | refused r => exact absurd hx (exec_ne_refused i _ r)

/-- Settles O9: the fetched zero word is the halt word, whose meaning leaves the state. -/
theorem haltWordChangesOnlyEir : Obligations.HaltWordChangesOnlyEir :=
  ⟨fun _ => rfl, fun _ h => ⟨step_halt h, cycle_halt h⟩⟩

/-- Settles O10: the four cases of a cycle, each clause read off them. -/
theorem faultingCycleChangesOnlyEir : Obligations.FaultingCycleChangesOnlyEir := by
  intro s
  have hfetch : memFetch s s.eip = fetchWord0 s := rfl
  rw [hfetch]
  cases cycleCase s with
  | fetchFault f h0 hc hs => simp [h0, hc, hs]
  | fault w0 f hz h0 hc hs => simp [h0, hc, hs, hz]
  | next w0 t hz h0 hc hs => simp [h0, hc, hs, hz]
  | halt h0 hc hs =>
    simp only [h0, hc, hs]
    simp [@eq_comm _ (s.setEir 0#32)]

end Sys2Proof.Machine
end

section
/-! The RAM port (20 R63 to R67): when an access is legal, which byte a fault names, and where the bytes of a
word lie. -/

namespace Sys2Proof.Machine

/-- An illegal access names its lowest byte out of range (R65). -/
theorem boundsCheck_eq_error {s : State} {pa n : Nat} (h : s.capacity.toNat < pa + (n - 1)) :
    boundsCheck s pa n = .error (.addressOutOfRange (max pa (s.capacity.toNat + 1))) := by
  unfold boundsCheck
  by_cases h1 : s.capacity.toNat < pa
  · rw [if_pos h1, max_eq_left h1]
  · rw [if_neg h1, if_pos h, max_eq_right (by omega)]

theorem physRead8_eq_error {s : State} {pa : Nat} (h : s.capacity.toNat < pa) :
    physRead8 s pa = .error (.addressOutOfRange pa) := by
  rw [physRead8, boundsCheck_eq_error h, max_eq_left h, except_bind_error]

theorem physWrite8_eq_error {s : State} {pa : Nat} (b : Byte) (h : s.capacity.toNat < pa) :
    physWrite8 s pa b = .error (.addressOutOfRange pa) := by
  rw [physWrite8, boundsCheck_eq_error h, max_eq_left h, except_bind_error]

theorem physRead32_eq_error {s : State} {pa : Nat} (h : s.capacity.toNat < pa + 3) :
    physRead32 s pa = .error (.addressOutOfRange (max pa (s.capacity.toNat + 1))) := by
  rw [physRead32, boundsCheck_eq_error h, except_bind_error]

theorem physWrite32_eq_error {s : State} {pa : Nat} (v : Word) (h : s.capacity.toNat < pa + 3) :
    physWrite32 s pa v = .error (.addressOutOfRange (max pa (s.capacity.toNat + 1))) := by
  rw [physWrite32, boundsCheck_eq_error h, except_bind_error]

/-- Settles O13: the bounds check passes up to CAPACITY inclusive, and past it names the lowest byte outside. -/
theorem ramPortBoundsAreInclusive : Obligations.RamPortBoundsAreInclusive := by
  intro s pa
  refine ⟨fun h => ⟨?_, fun b => ?_⟩, fun h => ⟨physRead8_eq_error h, fun b => physWrite8_eq_error b h⟩,
    fun h => ⟨?_, fun v => ?_⟩, fun h => ⟨physRead32_eq_error h, fun v => physWrite32_eq_error v h⟩⟩
  · exact physRead8_eq_ok.2 ⟨h, rfl⟩
  · exact physWrite8_eq_ok.2 ⟨h, rfl⟩
  · exact physRead32_eq_ok.2 ⟨h, rfl⟩
  · exact physWrite32_eq_ok.2 ⟨h, rfl⟩

/-- Settles O12: the write and read laws of the RAM list, under the bound the write passed. -/
theorem ramWordIsBigEndian : Obligations.RamWordIsBigEndian := by
  intro s pa v t h
  obtain ⟨hb, rfl⟩ := physWrite32_eq_ok.1 h
  obtain ⟨h0, h1, h2, h3⟩ := read_writeWord s.ram pa v
  have legal (k : Nat) (hk : k ≤ 3) : pa + k ≤ s.capacity.toNat := by omega
  exact ⟨physRead8_eq_ok.2 ⟨legal 0 (by omega), h0.symm⟩, physRead8_eq_ok.2 ⟨legal 1 (by omega), h1.symm⟩,
    physRead8_eq_ok.2 ⟨legal 2 (by omega), h2.symm⟩, physRead8_eq_ok.2 ⟨legal 3 (by omega), h3.symm⟩,
    physRead32_eq_ok.2 ⟨hb, (readWord_writeWord_self s.ram pa v).symm⟩,
    fun x hx => read_writeWord_other s.ram v hx, ⟨rfl, rfl⟩, setRam_getReg s _⟩

end Sys2Proof.Machine
end

section
/-! The MMU (20 R75 to R87): the walk in numbers, its faults in order, and reads and writes through it. -/

namespace Sys2Proof.Machine

/-- The entry's address in numbers (R78). -/
theorem pteAddr_eq (s : State) (va : Word) : pteAddr s va = s.ptp.toNat + va.toNat / 4096 * 4 := by
  have hlt := va.isLt
  have hpn : (pageNumber va).toNat = va.toNat / 4096 := by
    rw [pageNumber, BitVec.extractLsb'_toNat, Nat.shiftRight_eq_div_pow]
    exact Nat.mod_eq_of_lt (by omega)
  rw [pteAddr, hpn]

/-- The frame and the offset put together, in numbers (R82). -/
theorem toNat_ptePfn_append (pte va : Word) :
    (ptePfn pte ++ pageOffset va).toNat = pte.toNat % 2 ^ 20 * 4096 + va.toNat % 4096 := by
  have hoff : (pageOffset va).toNat = va.toNat % 4096 := by simp [pageOffset]
  have hpfn : (ptePfn pte).toNat = pte.toNat % 2 ^ 20 := by simp [ptePfn]
  rw [BitVec.toNat_append, ← Nat.shiftLeft_add_eq_or_of_lt (BitVec.isLt _), Nat.shiftLeft_eq, hoff, hpfn]

theorem pteFlags_eq (pte : Word) : pteFlags pte = BitVec.ofNat 12 (pte.toNat / 2 ^ 20) := by
  apply BitVec.eq_of_toNat_eq
  rw [pteFlags, BitVec.extractLsb'_toNat, BitVec.toNat_ofNat, Nat.shiftRight_eq_div_pow]

theorem ptePresent_eq (pte : Word) : ptePresent pte = decide (2 ^ 31 ≤ pte.toNat) := signFlag_eq pte

/-- What the permission test refuses (R81). -/
theorem permitted_eq_false {pte : Word} {k : Access} {pl : BitVec 2} :
    permitted pte k pl = false ↔
      (pte.getLsbD 28 = true ∧ pl ≠ kernelPL) ∨ (k = .write ∧ pte.getLsbD 30 = false)
        ∨ (k = .execute ∧ pte.getLsbD 29 = false) := by
  simp only [permitted, pteKernelOnly, pteWritable, pteExecutable, Bool.and_eq_false_iff, Bool.or_eq_false_iff,
    Bool.not_eq_false', decide_eq_false_iff_not, not_not, ne_eq, or_assoc]

section Walk

variable {s : State} {va : Word} {k : Access}

/-- The walk faults on an entry that cannot be read. -/
theorem translate_entry_error (hpg : s.pg = true) {f : Fault} (h : physRead32 s (pteAddr s va) = .error f) :
    mmuTranslate s va k = .error f := by
  simp only [mmuTranslate, hpg, if_true, h, except_bind_error]

/-- With the entry in the RAM the walk is its two tests and the concatenation (R79). -/
theorem translate_paged_eq (hpg : s.pg = true) (hb : pteAddr s va + 3 ≤ s.capacity.toNat) :
    mmuTranslate s va k =
      if ptePresent (s.ram.readWord (pteAddr s va)) = false then
        .error (.pageFault (pteFlags (s.ram.readWord (pteAddr s va))) (BitVec.ofNat 32 (pteAddr s va)))
      else if permitted (s.ram.readWord (pteAddr s va)) k s.pl = false then .error .privilegeViolation
      else .ok (ptePfn (s.ram.readWord (pteAddr s va)) ++ pageOffset va).toNat := by
  simp only [mmuTranslate, hpg, if_true, physRead32_eq_ok.2 ⟨hb, rfl⟩, except_bind_ok]

theorem translate_not_present (hpg : s.pg = true) (hb : pteAddr s va + 3 ≤ s.capacity.toNat)
    (hp : ptePresent (s.ram.readWord (pteAddr s va)) = false) :
    mmuTranslate s va k =
      .error (.pageFault (pteFlags (s.ram.readWord (pteAddr s va))) (BitVec.ofNat 32 (pteAddr s va))) := by
  rw [translate_paged_eq hpg hb, if_pos hp]

end Walk

/-- Settles O14: the walk's three stops and its answer, in numbers. -/
theorem translationWalksOneLinearTable : Obligations.TranslationWalksOneLinearTable := by
  intro s va k
  simp only [← pteAddr_eq]
  refine ⟨fun hpg => translate_real hpg va k, ?entry, ?present, ?permission⟩
  case entry =>
    intro hpg hb
    exact translate_entry_error hpg (physRead32_eq_error hb)
  case present =>
    intro hpg hb hlt
    rw [translate_not_present hpg hb (by rw [ptePresent_eq]; simpa using hlt), pteFlags_eq]
  case permission =>
    intro hpg hb hle
    have hp : ptePresent (s.ram.readWord (pteAddr s va)) = true := by rw [ptePresent_eq]; simpa using hle
    rw [translate_paged_eq hpg hb, if_neg (by simp [hp]), ← toNat_ptePfn_append]
    exact if_congr permitted_eq_false rfl rfl

/-! ### The access primitives -/

/-- An access through the MMU faults in the translation or at the RAM port (R85, R86). -/
theorem isFetchFault_of_access {s : State} {va : Word} {k : Access} {α : Type} {g : Nat → Except Fault α} {f : Fault}
    (hg : ∀ pa f, g pa = .error f → ∃ a, f = .addressOutOfRange a)
    (h : (mmuTranslate s va k >>= g) = .error f) : IsFetchFault f := by
  obtain htrans | ⟨pa, -, hport⟩ := except_bind_eq_error.1 h
  · exact isFetchFault_of_translate htrans
  · exact .inr (.inl (hg pa f hport))

/-- An access of the RAM port after its bounds check raises AddressOutOfRange and nothing else (R65). -/
theorem addressOutOfRange_of_port {s : State} {pa n : Nat} {α : Type} {x : α} {f : Fault}
    (h : (boundsCheck s pa n >>= fun _ => .ok x) = .error f) : ∃ a, f = .addressOutOfRange a := by
  obtain hb | ⟨u, -, hu⟩ := except_bind_eq_error.1 h
  · exact addressOutOfRange_of_boundsCheck hb
  · cases hu

theorem isFetchFault_of_memRead32 {s : State} {va : Word} {f : Fault} (h : memRead32 s va = .error f) :
    IsFetchFault f := isFetchFault_of_access (fun _ _ => addressOutOfRange_of_port) h

theorem isFetchFault_of_memRead8 {s : State} {va : Word} {f : Fault} (h : memRead8 s va = .error f) :
    IsFetchFault f := isFetchFault_of_access (fun _ _ => addressOutOfRange_of_port) h

theorem isFetchFault_of_memWrite32 {s : State} {va v : Word} {f : Fault} (h : memWrite32 s va v = .error f) :
    IsFetchFault f := isFetchFault_of_access (fun _ _ => addressOutOfRange_of_port) h

theorem isFetchFault_of_memWrite8 {s : State} {va : Word} {b : Byte} {f : Fault} (h : memWrite8 s va b = .error f) :
    IsFetchFault f := isFetchFault_of_access (fun _ _ => addressOutOfRange_of_port) h

/-- A present, permitted entry translates its page to its frame (R79 to R82). -/
theorem translate_of_entry {s : State} {va pte : Word} {k : Access} {e : Nat} (hpg : s.pg = true)
    (he : pteAddr s va = e) (hb : e + 3 ≤ s.capacity.toNat) (hentry : s.ram.readWord e = pte)
    (hp : ptePresent pte = true) (hperm : permitted pte k s.pl = true) :
    mmuTranslate s va k = .ok (ptePfn pte ++ pageOffset va).toNat := by
  subst he hentry
  exact (translate_paged_eq_ok hpg).2 ⟨hb, hp, hperm, rfl⟩

/-- A page that may be written may be read (R81). -/
theorem permitted_read_of_write {pte : Word} {pl : BitVec 2} (h : permitted pte .write pl = true) :
    permitted pte .read pl = true := by
  simp only [permitted, Bool.and_eq_true] at h ⊢
  exact ⟨⟨h.1.1, rfl⟩, rfl⟩

/-- A word written through a translated address is read back where the reading address translates to the
same place. -/
theorem memRead32_of_write {s t : State} {va v : Word} {pa : Nat} (ht : t = s.setRam (s.ram.writeWord pa v))
    (hb : pa + 3 ≤ s.capacity.toNat) (htr : mmuTranslate t va .read = .ok pa) : memRead32 t va = .ok v := by
  subst ht
  exact memRead32_eq_ok.2 ⟨pa, htr, hb, (readWord_writeWord_self s.ram pa v).symm⟩

/-- Settles O15: the primitives are a translation and the RAM port; the retry goes through the repaired
entry, which the write of the frame leaves alone. -/
theorem memoryAccessAndPageFaultRetry : Obligations.MemoryAccessAndPageFaultRetry := by
  refine ⟨?read, ?readFault, ?write, ?writeFault, ?fetch, ?fetchFault, ?kinds32, ?kinds8, ?retry⟩
  case read =>
    intro s va pa h
    simp only [memRead32, memRead8, h, except_bind_ok, and_self]
  case readFault =>
    intro s va f h
    simp only [memRead32, memRead8, h, except_bind_error, and_self]
  case write =>
    intro s va pa h
    simp only [memWrite32, memWrite8, h, except_bind_ok, implies_true, and_self]
  case writeFault =>
    intro s va f h
    simp only [memWrite32, memWrite8, h, except_bind_error, implies_true, and_self]
  case fetch =>
    intro s va pa h
    simp only [memFetch, h, except_bind_ok]
  case fetchFault =>
    intro s va f h
    simp only [memFetch, h, except_bind_error]
  case kinds32 =>
    rintro s va v f (h | h)
    · exact isFetchFault_of_memRead32 h
    · exact isFetchFault_of_memWrite32 h
  case kinds8 =>
    rintro s va b f (h | h)
    · exact isFetchFault_of_memRead8 h
    · exact isFetchFault_of_memWrite8 h
  case retry =>
    intro s va v pte hpg hb habsent hp hperm hframe hapart
    have hlt : pteAddr s va < 2 ^ 32 := by have := s.capacity.isLt; omega
    refine ⟨?_, ?_, ?_⟩
    · simp only [memWrite32, translate_not_present hpg hb habsent, except_bind_error]
    · rw [BitVec.toNat_ofNat, Nat.mod_eq_of_lt hlt]
    · have hentry := readWord_writeWord_self s.ram (pteAddr s va) pte
      refine ⟨_, memWrite32_eq_ok.2 ⟨_, translate_of_entry hpg rfl hb hentry hp hperm, hframe, rfl⟩, ?_⟩
      refine memRead32_of_write rfl hframe ?_
      exact translate_of_entry hpg rfl hb ((readWord_writeWord_other _ v hapart.symm).trans hentry) hp
        (permitted_read_of_write hperm)

/-- Settles O16: the fetch reads where the store went. -/
theorem storeIsSeenByTheNextFetch : Obligations.StoreIsSeenByTheNextFetch := by
  intro s t va v h htr
  obtain ⟨pa, hpa, hb, rfl⟩ := memWrite32_eq_ok.1 h
  exact memFetch_eq_ok.2 ⟨pa, htr.trans hpa, hb, (readWord_writeWord_self s.ram pa v).symm⟩

end Sys2Proof.Machine
end

section
/-! Registers and operands (40 R135 to R139): reads and writes by code, the layout of EFLAGS, and what a write of
an operand leaves. -/

namespace Sys2Proof.Machine

/-! ### Register codes -/

@[simp] theorem ofCode_code (r : Reg) : Reg.ofCode r.code = some r := by cases r <;> rfl

/-- A code above 11 names no register (R35). -/
theorem ofCode_eq_none {c : Word} (h : 11 < c.toNat) : Reg.ofCode c = none := by
  obtain ⟨n, hn⟩ := Nat.exists_eq_add_of_le' h
  unfold Reg.ofCode
  rw [hn]
  rfl

theorem regRead_code {s : State} {r : Reg} (h : s.hasReg r = true) : regRead s r.code = .ok (s.getReg r) :=
  regRead_eq_ok.2 ⟨r, ofCode_code r, h, rfl⟩

theorem regRead_error_of_code {s : State} {c : Word} (h : 11 < c.toNat) :
    regRead s c = .error .unrecognizedOperandType := by
  simp only [regRead, ofCode_eq_none h]

theorem hasReg_eq_false {s : State} {r : Reg} : s.hasReg r = false ↔ r = .gptp ∧ s.pg = false := by
  simp [State.hasReg]

/-- An absent register is refused (R41, R135). -/
theorem regRead_absent {s : State} {r : Reg} (h : s.hasReg r = false) :
    regRead s r.code = .error .unsupportedOperandType := by
  simp [regRead, h]

/-! ### The layout of EFLAGS (R30) -/

theorem getLsbD_eflags (s : State) (k : Nat) :
    s.eflags.getLsbD k = if k < 24 then false else s.flagsByte.getLsbD (k - 24) := by
  rw [State.eflags, BitVec.getLsbD_append, BitVec.getLsbD_zero]

/-- PL is the two highest bits of EFLAGS. -/
theorem extractLsb'_eflags (s : State) : s.eflags.extractLsb' 30 2 = s.pl := by
  refine BitVec.eq_of_getLsbD_eq fun i hi => ?_
  rw [State.pl, flagPL, BitVec.getLsbD_extractLsb', BitVec.getLsbD_extractLsb', getLsbD_eflags,
    if_neg (by omega), show 30 + i - 24 = 6 + i by omega]

theorem getLsbD_flagPL (b : Byte) {i : Nat} (hi : i < 2) : (flagPL b).getLsbD i = b.getLsbD (6 + i) := by
  simp [flagPL, hi]

/-- The arithmetic flags are bits 5 to 1 of the flags byte: the rest keeps its value. -/
theorem getLsbD_withArith_other (b : Byte) (f : ArithFlags) {k : Nat} (h : k < 1 ∨ 5 < k) :
    (withArith b f).getLsbD k = b.getLsbD k := by
  obtain rfl | h6 | h8 : k = 0 ∨ (6 ≤ k ∧ k < 8) ∨ 8 ≤ k := by omega
  · exact flagIF_withArith b f
  · have hpl := congrArg (fun p : BitVec 2 => p.getLsbD (k - 6)) (flagPL_withArith b f)
    rw [getLsbD_flagPL _ (by omega), getLsbD_flagPL _ (by omega), show 6 + (k - 6) = k by omega] at hpl
    exact hpl
  · rw [BitVec.getLsbD_of_ge _ _ h8, BitVec.getLsbD_of_ge _ _ h8]

theorem getLsbD_eflags_setArith_other (s : State) (f : ArithFlags) {k : Nat} (h : k < 25 ∨ 29 < k) :
    (s.setArith f).eflags.getLsbD k = s.eflags.getLsbD k := by
  rw [getLsbD_eflags, getLsbD_eflags]
  by_cases hk : k < 24
  · rw [if_pos hk, if_pos hk]
  · rw [if_neg hk, if_neg hk]
    exact getLsbD_withArith_other s.flagsByte f (by omega)

/-- Settles O17: one code per register, then EFLAGS bit by bit. -/
theorem registerReadByCode : Obligations.RegisterReadByCode := by
  intro s
  have heflags : regRead s 6#32 = .ok s.eflags := rfl
  refine ⟨rfl, rfl, rfl, rfl, rfl, rfl, rfl, rfl, rfl, rfl, ?there, ?absent, rfl,
    fun c => regRead_error_of_code, ?layout, ?arith⟩
  case there => exact fun hpg => regRead_code (r := .gptp) (by simp [State.hasReg, hpg])
  case absent => exact fun hpg => regRead_absent (r := .gptp) (hasReg_eq_false.2 ⟨rfl, hpg⟩)
  case layout =>
    intro v h
    rw [heflags, except_ok_eq_ok] at h
    subst h
    refine ⟨extractLsb'_eflags s, ?_, ?_, ?_, ?_, ?_, ?_, fun k hk => ?_⟩ <;> rw [getLsbD_eflags]
    iterate 6 rfl
    exact if_pos hk
  case arith =>
    intro f v h
    have hv : v = (s.setArith f).eflags := except_ok_eq_ok.1 h
    have harith : arithOf (s.setArith f).flagsByte = f := arithOf_withArith s.flagsByte f
    subst hv
    refine ⟨?_, ?_, ?_, ?_, ?_, fun k hk => getLsbD_eflags_setArith_other s f hk⟩ <;> rw [getLsbD_eflags]
    · exact congrArg ArithFlags.zf harith
    · exact congrArg ArithFlags.sf harith
    · exact congrArg ArithFlags.cf harith
    · exact congrArg ArithFlags.of harith
    · exact congrArg ArithFlags.pf harith

/-! ### Register writes -/

theorem userWritable_iff {r : Reg} : userWritable r = true ↔ r ∈ [Reg.eax, .ebx, .ecx, .esp] := by
  cases r <;> decide

theorem regWrite_code {s : State} {r : Reg} (v : Word) (h : s.hasReg r = true)
    (hp : s.pl = kernelPL ∨ userWritable r = true) : regWrite s r.code v = .ok (s.setReg r v) :=
  regWrite_eq_ok.2 ⟨r, ofCode_code r, h, hp, rfl⟩

/-- What a raw write leaves in the register: EFLAGS keeps bits 31:24 only (R136). -/
theorem getReg_setReg (s : State) (r : Reg) (v : Word) :
    (s.setReg r v).getReg r = if r = .eflags then v.extractLsb' 24 8 ++ 0#24 else v := by
  by_cases hr : r = .eflags
  · subst hr
    exact getReg_setReg_eflags s v
  · rw [if_neg hr, getReg_setReg_self s r v hr]

theorem setReg_sameMemory (s : State) (r : Reg) (v : Word) : SameMemory s (s.setReg r v) :=
  fun x => by rw [setReg_ram]

theorem setReg_sameMachine (s : State) (r : Reg) (v : Word) : SameMachine s (s.setReg r v) :=
  ⟨setReg_pg s r v, setReg_capacity s r v⟩

/-- Settles O18: the checks in their order, and what a raw write changes. -/
theorem registerWriteByCode : Obligations.RegisterWriteByCode := by
  intro s r v
  refine ⟨?write, ?user, hasReg_eq_false, ?absent, ?code⟩
  case write =>
    intro h hp
    exact ⟨_, regWrite_code v h (hp.imp_right userWritable_iff.2), getReg_setReg s r v, setReg_frame s r v,
      setReg_sameMemory s r v, setReg_sameMachine s r v⟩
  case user =>
    intro h hp hr
    have hu : userWritable r = false := by rwa [← Bool.not_eq_true, userWritable_iff]
    simp [regWrite, h, hp, hu]
  case absent =>
    intro h
    simp [regWrite, h]
  case code =>
    intro c hc
    simp only [regWrite, ofCode_eq_none hc]

/-! ### Operands -/

/-- Settles O19: each form's value and target, by the form. -/
theorem operandValueOfEveryForm : Obligations.OperandValueOfEveryForm := by
  intro s
  refine ⟨⟨rfl, rfl⟩, fun _ => ⟨rfl, rfl⟩, fun _ => ⟨rfl, rfl⟩, fun _ => ⟨rfl, rfl⟩, ?value, ?fault⟩
  case value =>
    intro c a h
    simp only [srcVal, addrVal, operandAddr, h, except_bind_ok, and_self]
  case fault =>
    intro c f h
    simp only [srcVal, addrVal, operandAddr, h, except_bind_error, and_self]

theorem memWritable_iff {s : State} {a v : Word} : (∃ t, memWrite32 s a v = .ok t) ↔ MemWritable s a 4 := by
  simp only [memWrite32_eq_ok, MemWritable]
  constructor
  · rintro ⟨t, pa, hpa, hb, -⟩
    exact ⟨pa, hpa, hb⟩
  · rintro ⟨pa, hpa, hb⟩
    exact ⟨_, pa, hpa, hb, rfl⟩

/-- A write to an operand answers exactly when the operand may be written (R139). -/
theorem writeOp_answers_iff {s : State} {op : Operand} {v : Word} :
    (∃ t, writeOp s op v = .ok t) ↔ TargetWritable s op := by
  cases op with
  | no => simp [writeOp, TargetWritable]
  | imm u => simp [writeOp, TargetWritable]
  | mem a => exact memWritable_iff
  | reg c =>
    simp only [writeOp, regWrite_eq_ok, TargetWritable]
    constructor
    · rintro ⟨t, r, hr, hh, hp, -⟩
      exact ⟨r, hr, hh, hp⟩
    · rintro ⟨r, hr, hh, hp⟩
      exact ⟨_, r, hr, hh, hp, rfl⟩
  | regInd c =>
    simp only [writeOp, operandAddr, except_bind_eq_ok, TargetWritable, ← memWritable_iff (v := v)]
    exact ⟨fun ⟨t, a, ha, ht⟩ => ⟨a, ha, t, ht⟩, fun ⟨a, ha, t, ht⟩ => ⟨t, a, ha, ht⟩⟩

/-- A direct register target is the register operand of its code. -/
theorem targetReg_eq_some {op : Operand} {r : Reg} :
    targetReg op = some r ↔ ∃ c, op = .reg c ∧ Reg.ofCode c = some r := by
  cases op <;> simp [targetReg]

/-- A write to a register operand is the raw write of that register (R136). -/
theorem writeOp_targetReg {s t : State} {op : Operand} {v : Word} {r : Reg} (h : writeOp s op v = .ok t)
    (hr : targetReg op = some r) : t = s.setReg r v := by
  obtain ⟨c, rfl, hc⟩ := targetReg_eq_some.1 hr
  obtain ⟨r', hr', -, -, rfl⟩ := regWrite_eq_ok.1 h
  rw [hc] at hr'
  cases hr'
  rfl

/-- A write to a memory operand stores the word where the MMU translates its address (R139). -/
theorem writeOp_readWord {s t : State} {op : Operand} {v a : Word} {pa : Nat} (h : writeOp s op v = .ok t)
    (ha : operandAddr s op = .ok a) (hpa : mmuTranslate s a .write = .ok pa) : t.ram.readWord pa = v := by
  obtain ⟨c, rfl, -⟩ | ⟨-, a', ha', hw⟩ := writeOp_eq_ok.1 h
  · cases ha
  · rw [ha] at ha'
    cases ha'
    obtain ⟨pa', hpa', -, rfl⟩ := memWrite32_eq_ok.1 hw
    rw [hpa] at hpa'
    cases hpa'
    exact readWord_writeWord_self s.ram pa v

/-- Settles O20: when the write answers, its frame, and what the named register or bytes then hold. -/
theorem operandWriteOfEveryForm : Obligations.OperandWriteOfEveryForm := by
  refine ⟨fun _ _ _ => writeOp_answers_iff, ?written, fun _ _ => rfl, fun _ _ _ => rfl⟩
  intro s op v t h
  refine ⟨writeOp_frame h, ?reg, ?eflags, fun a pa => writeOp_readWord h⟩
  case reg =>
    intro r hr hne
    rw [writeOp_targetReg h hr, getReg_setReg_self s r v hne]
  case eflags =>
    intro hr
    rw [writeOp_targetReg h hr]
    rfl

end Sys2Proof.Machine
end

section
/-! The adder's laws (41 R169) and the bit-level multiplier and divider (40 R149, R150): each loop by an invariant
over its rounds. -/

namespace Sys2Proof.Machine

/-! ### The adder -/

theorem twosComp_eq_neg (b : Word) : twosComp b = -b := (BitVec.neg_eq_not_add b).symm

/-- Without a carry in, the adder's value is the sum. -/
theorem add32_value_false (a b : Word) : (add32 a b false).value = a + b := by
  rw [add32_value]
  exact BitVec.add_zero _

theorem carryInto_comm (k : Nat) (a b : Word) (cin : Bool) : carryInto k a b cin = carryInto k b a cin := by
  simp only [carryInto, Nat.add_comm (a.toNat % 2 ^ k)]

theorem add32_comm (a b : Word) (cin : Bool) : add32 a b cin = add32 b a cin := by
  simp only [add32, addFlags, carryInto_comm _ a b, Nat.add_comm a.toNat]

theorem aluNeg_value (b : Word) : (aluNeg b).value = twosComp b := add32_value_false _ _

theorem aluSub_value (a b : Word) : (aluSub a b).value = a - b := by
  rw [aluSub, add32_value_false, twosComp_eq_neg, BitVec.sub_eq_add_neg]

theorem add32_zf (a b : Word) (cin : Bool) : (add32 a b cin).flags.zf = decide ((add32 a b cin).value = 0#32) := rfl

/-- Settles O23: the adder by its value and its symmetric carries; the readings are the library's. -/
theorem adderLawsAndNumberReadings : Obligations.AdderLawsAndNumberReadings := by
  refine ⟨?zero, fun a b => add32_comm a b false, ?self, ?sub, ?ofInt, ?ofNat, ?readings⟩
  case zero =>
    intro a
    rw [add32_value_false, BitVec.add_zero]
  case self =>
    intro a
    have hz : (aluSub a a).value = 0#32 := by rw [aluSub_value, BitVec.sub_self]
    exact ⟨hz, (add32_zf _ _ _).trans (decide_eq_true hz)⟩
  case sub =>
    intro a b
    rw [aluNeg_value, aluSub]
  case ofInt =>
    intro n hlo hhi
    exact BitVec.toInt_ofInt_eq_self (by decide) hlo hhi
  case ofNat =>
    intro n hn
    rw [BitVec.toNat_ofNat, Nat.mod_eq_of_lt hn]
  case readings =>
    intro x
    refine ⟨?_, BitVec.ofInt_toInt, (BitVec.ofNat_toNat 32 x).trans (BitVec.setWidth_eq x)⟩
    have hmsb : x.getLsbD 31 = x.msb := rfl
    rw [BitVec.toInt_eq_msb_cond, hmsb]
    split <;> simp

/-! ### The Booth multiplier -/

/-- The accumulator of a Booth round before the shift. -/
def boothAcc (a : Word) (x : Word × Word × Bool) : Word :=
  if x.2.1.getLsbD 0 && !x.2.2 then x.1 - a
  else if !x.2.1.getLsbD 0 && x.2.2 then x.1 + a
  else x.1

theorem boothRound_eq (a : Word) (x : Word × Word × Bool) :
    boothRound a x = ((boothAcc a x).sshiftRight 1,
      (boothAcc a x).extractLsb' 0 1 ++ x.2.1.extractLsb' 1 31, x.2.1.getLsbD 0) := rfl

/-- A round adds the multiplicand times the difference of the last two bits (R149). -/
theorem boothAcc_modEq (a : Word) (x : Word × Word × Bool) :
    ((boothAcc a x).toNat : Int) ≡ x.1.toNat + a.toNat * ((x.2.2.toNat : Int) - (x.2.1.getLsbD 0).toNat)
      [ZMOD 2 ^ 32] := by
  obtain ⟨acc, q, last⟩ := x
  have ha := a.isLt
  have hacc := acc.isLt
  unfold Int.ModEq boothAcc
  cases hq : q.getLsbD 0 <;> cases last
  · simp
  · simp [BitVec.toNat_add]
  · simp [BitVec.toNat_sub]
    omega
  · simp

/-- The shift keeps the accumulator but for its lowest bit, modulo the word. -/
theorem two_mul_sshiftRight_modEq (acc : Word) :
    2 * ((acc.sshiftRight 1).toNat : Int) + (acc.toNat % 2 : Nat) ≡ acc.toNat [ZMOD 2 ^ 32] := by
  have hint : (acc.sshiftRight 1).toInt = acc.toInt / 2 := by
    rw [BitVec.toInt_sshiftRight, Int.shiftRight_eq_div_pow]
    rfl
  rw [BitVec.toInt_eq_toNat_cond, BitVec.toInt_eq_toNat_cond] at hint
  unfold Int.ModEq
  split at hint <;> split at hint <;> omega

theorem toNat_boothQuotient (acc q : Word) :
    (acc.extractLsb' 0 1 ++ q.extractLsb' 1 31).toNat = acc.toNat % 2 * 2 ^ 31 + q.toNat / 2 := by
  have hq : (q.extractLsb' 1 31).toNat = q.toNat / 2 := by
    have := q.isLt
    rw [BitVec.extractLsb'_toNat, Nat.shiftRight_eq_div_pow]
    exact Nat.mod_eq_of_lt (by omega)
  have hacc : (acc.extractLsb' 0 1).toNat = acc.toNat % 2 := by simp
  rw [BitVec.toNat_append, ← Nat.shiftLeft_add_eq_or_of_lt (BitVec.isLt _), Nat.shiftLeft_eq, hacc, hq]

/-- The multiplier after `n` rounds: the low bits of `Q` are the bits of `b` still to come, and the register above
them holds the multiplicand times the signed value of the low `n` bits of `b`, modulo the word. -/
structure BoothInv (a b : Word) (n : Nat) (x : Word × Word × Bool) : Prop where
  rest : x.2.1.toNat % 2 ^ (32 - n) = b.toNat / 2 ^ n
  sum : (x.1.toNat * 2 ^ n + (x.2.1.toNat / 2 ^ (32 - n) : Nat) : Int)
    ≡ a.toNat * ((b.toNat % 2 ^ n : Nat) - x.2.2.toNat * 2 ^ n) [ZMOD 2 ^ 32]

theorem boothInv_zero (a b : Word) : BoothInv a b 0 (0#32, b, false) where
  rest := by simp [Nat.mod_eq_of_lt b.isLt]
  sum := by simp [Nat.div_eq_of_lt b.isLt, Nat.mod_one]

theorem boothInv_succ {a b : Word} {n : Nat} {x : Word × Word × Bool} (hn : n < 32) (h : BoothInv a b n x) :
    BoothInv a b (n + 1) (boothRound a x) := by
  obtain ⟨acc, q, last⟩ := x
  obtain ⟨hrest, hsum⟩ := h
  obtain ⟨m, hm⟩ : ∃ m, 32 - n = m + 1 := ⟨31 - n, by omega⟩
  have hm' : 32 - (n + 1) = m := by omega
  have h31 : 2 ^ 31 = 2 ^ n * 2 ^ m := by rw [← Nat.pow_add, show n + m = 31 by omega]
  have hbit : (q.getLsbD 0).toNat = b.toNat / 2 ^ n % 2 := by
    have hdvd : 2 ∣ 2 ^ (32 - n) := ⟨2 ^ m, by rw [hm, Nat.pow_succ, Nat.mul_comm]⟩
    rw [← hrest, Nat.mod_mod_of_dvd _ hdvd, BitVec.getLsbD, Nat.toNat_testBit, Nat.pow_zero, Nat.div_one]
  rw [hm] at hrest hsum
  rw [boothRound_eq]
  refine ⟨?rest, ?sum⟩
  case rest =>
    rw [toNat_boothQuotient, hm', h31, ← Nat.mul_assoc, Nat.mul_add_mod_self_right, Nat.pow_succ,
      ← Nat.div_div_eq_div_mul, ← hrest, Nat.pow_succ, Nat.mul_comm (2 ^ m), ← Nat.mod_mul_right_div_self]
  case sum =>
    have hacc := boothAcc_modEq a (acc, q, last)
    have hshift := two_mul_sshiftRight_modEq (boothAcc a (acc, q, last))
    generalize boothAcc a (acc, q, last) = w at hacc hshift ⊢
    have hdiv : (w.toNat % 2 * 2 ^ 31 + q.toNat / 2) / 2 ^ m = w.toNat % 2 * 2 ^ n + q.toNat / 2 ^ (m + 1) := by
        rw [h31, ← Nat.mul_assoc, Nat.add_comm, Nat.add_mul_div_right _ _ (Nat.two_pow_pos m), Nat.div_div_eq_div_mul,
        ← Nat.pow_succ', Nat.add_comm]
    rw [toNat_boothQuotient, hm', hdiv, hbit, Nat.mod_pow_succ]
    push_cast at hacc hshift hsum ⊢
    calc (w.sshiftRight 1).toNat * 2 ^ (n + 1) + ((w.toNat % 2 : Int) * 2 ^ n + (q.toNat : Int) / 2 ^ (m + 1))
        = (2 * (w.sshiftRight 1).toNat + (w.toNat : Int) % 2) * 2 ^ n + (q.toNat : Int) / 2 ^ (m + 1) := by ring
      _ ≡ w.toNat * 2 ^ n + (q.toNat : Int) / 2 ^ (m + 1) [ZMOD 2 ^ 32] := (hshift.mul_right _).add_right _
      _ ≡ (acc.toNat + a.toNat * (last.toNat - (q.getLsbD 0).toNat)) * 2 ^ n + (q.toNat : Int) / 2 ^ (m + 1)
          [ZMOD 2 ^ 32] := (hacc.mul_right _).add_right _
      _ = (acc.toNat * 2 ^ n + (q.toNat : Int) / 2 ^ (m + 1))
          + a.toNat * (last.toNat - (q.getLsbD 0).toNat) * 2 ^ n := by ring
      _ ≡ a.toNat * ((b.toNat : Int) % 2 ^ n - last.toNat * 2 ^ n)
          + a.toNat * (last.toNat - (q.getLsbD 0).toNat) * 2 ^ n [ZMOD 2 ^ 32] := hsum.add_right _
      _ = a.toNat * ((b.toNat : Int) % 2 ^ n + 2 ^ n * (b.toNat / 2 ^ n % 2)
          - (b.toNat / 2 ^ n % 2) * 2 ^ (n + 1)) := by rw [hbit]; push_cast; ring

theorem boothInv_rounds (a b : Word) {n : Nat} (hn : n ≤ 32) : BoothInv a b n (boothRounds a b n) := by
  induction n with
  | zero => exact boothInv_zero a b
  | succ n ih => exact boothInv_succ hn (ih (by omega))

/-- After all rounds nothing of `b` is left and the low word is the product. -/
theorem boothMul_eq (a b : Word) : boothMul a b = BitVec.ofNat 32 (a.toNat * b.toNat) := by
  have hsum := (boothInv_rounds a b (le_refl 32)).sum
  apply BitVec.eq_of_toNat_eq
  have hlt := (boothMul a b).isLt
  have hb := b.isLt
  have hq : (boothRounds a b 32).2.1 = boothMul a b := rfl
  rw [hq] at hsum
  simp only [Int.ModEq, Nat.sub_self, Nat.pow_zero, Nat.div_one, Nat.mod_eq_of_lt hb] at hsum
  rw [BitVec.toNat_ofNat]
  push_cast at hsum
  rw [Int.add_comm, Int.add_mul_emod_self_right, mul_sub, ← mul_assoc, Int.sub_mul_emod_self_right] at hsum
  have hnat : (boothMul a b).toNat % 2 ^ 32 = a.toNat * b.toNat % 2 ^ 32 := by exact_mod_cast hsum
  rwa [Nat.mod_eq_of_lt hlt] at hnat

/-- The low word of the signed product is that of the unsigned one. -/
theorem ofInt_mul_toInt (a b : Word) : BitVec.ofInt 32 (a.toInt * b.toInt) = BitVec.ofNat 32 (a.toNat * b.toNat) := by
  rw [BitVec.ofInt_mul, BitVec.ofInt_toInt, BitVec.ofInt_toInt]
  exact (BitVec.ofNat_mul ..).trans (by simp) |>.symm

/-- Settles O24: the product by the invariant of the rounds, read signed and unsigned. -/
theorem boothMultiplierGivesTheLowProduct : Obligations.BoothMultiplierGivesTheLowProduct :=
  fun a b => ⟨(boothMul_eq a b).trans (ofInt_mul_toInt a b).symm, boothMul_eq a b, boothMul_eq a b⟩

/-! ### The restoring divider -/

/-- After `n` rounds the divider has divided the `n` most significant bits of the dividend (R150). -/
theorem restoringRounds_eq {ma mb : Nat} (hma : ma < 2 ^ 32) (hmb : 0 < mb) {n : Nat} (hn : n ≤ 32) :
    restoringRounds ma mb n = (ma / 2 ^ (32 - n) % mb, ma / 2 ^ (32 - n) / mb) := by
  induction n with
  | zero => rw [Nat.sub_zero, Nat.div_eq_of_lt hma, Nat.zero_mod, Nat.zero_div, restoringRounds]
  | succ n ih =>
    obtain ⟨m, hm⟩ : ∃ m, 31 - n = m := ⟨_, rfl⟩
    have hpre : ma / 2 ^ (32 - n) = ma / 2 ^ m / 2 := by
      rw [show 32 - n = m + 1 by omega, Nat.pow_succ, Nat.div_div_eq_div_mul]
    rw [restoringRounds, ih (by omega), hpre, hm, show 32 - (n + 1) = m by omega]
    generalize ma / 2 ^ m = p
    have hdiv := Nat.div_add_mod (p / 2) mb
    have hlt := Nat.mod_lt (p / 2) hmb
    have hp : p = mb * (2 * (p / 2 / mb)) + (2 * (p / 2 % mb) + p % 2) := by
      rw [Nat.mul_left_comm]
      omega
    generalize p / 2 % mb = r at *
    generalize p / 2 / mb = q at *
    split
    case isTrue hle =>
      obtain ⟨hq, hr⟩ := (Nat.div_mod_unique (a := p) (c := 2 * r + p % 2 - mb) (d := 2 * q + 1) hmb).2
        ⟨by rw [Nat.mul_add_one]; omega, by omega⟩
      rw [hq, hr]
    case isFalse hgt =>
      obtain ⟨hq, hr⟩ := (Nat.div_mod_unique (a := p) (c := 2 * r + p % 2) (d := 2 * q) hmb).2
        ⟨by omega, Nat.lt_of_not_le hgt⟩
      rw [hq, hr]

theorem restoringRounds_all {ma mb : Nat} (hma : ma < 2 ^ 32) (hmb : 0 < mb) :
    restoringRounds ma mb 32 = (ma % mb, ma / mb) := by
  rw [restoringRounds_eq hma hmb le_rfl, Nat.sub_self, Nat.pow_zero, Nat.div_one]

theorem restoringDiv_eq {ma mb : Nat} (hma : ma < 2 ^ 32) (hmb : 0 < mb) : restoringDiv ma mb = ma / mb :=
  congrArg Prod.snd (restoringRounds_all hma hmb)

/-- The magnitude is the number without its sign (R150). -/
theorem toInt_eq_magnitude (x : Word) :
    x.toInt = if x.getLsbD 31 then -(magnitude x : Int) else (magnitude x : Int) := by
  have hx := x.isLt
  have hmsb : x.getLsbD 31 = x.msb := rfl
  rw [BitVec.toInt_eq_msb_cond, magnitude, hmsb]
  split <;> omega

theorem magnitude_lt (x : Word) : magnitude x < 2 ^ 32 := by
  have hx := x.isLt
  have hmsb : x.getLsbD 31 = decide (2 ^ 31 ≤ x.toNat) := BitVec.msb_eq_decide x
  rw [magnitude, hmsb]
  split
  · next h =>
    have := of_decide_eq_true h
    omega
  · exact hx

theorem magnitude_pos {x : Word} (h : x ≠ 0#32) : 0 < magnitude x := by
  have hx := x.isLt
  have hne : x.toNat ≠ 0 := fun e => h (BitVec.eq_of_toNat_eq e)
  rw [magnitude]
  split <;> omega

/-- The quotient of the magnitudes with the sign applied is the signed quotient rounded toward zero (R150). -/
theorem quotient_eq_tdiv (a b : Word) : quotient a b = BitVec.ofInt 32 (a.toInt.tdiv b.toInt) := by
  have hnat : BitVec.ofInt 32 ((magnitude a : Int) / magnitude b) = BitVec.ofNat 32 (magnitude a / magnitude b) := by
    rw [← Int.natCast_div, BitVec.ofInt_natCast]
  rw [toInt_eq_magnitude a, toInt_eq_magnitude b, quotient]
  cases a.getLsbD 31 <;> cases b.getLsbD 31
  · simp [hnat]
  · simp [Int.tdiv_neg, BitVec.ofInt_neg, hnat, twosComp_eq_neg]
  · simp [Int.neg_tdiv, BitVec.ofInt_neg, hnat, twosComp_eq_neg]
  · simp [Int.neg_tdiv, Int.tdiv_neg, hnat]

/-- Settles O25: quotient and remainder by the invariant of the rounds, then the sign. -/
theorem restoringDividerGivesTheQuotient : Obligations.RestoringDividerGivesTheQuotient := by
  refine ⟨?rounds, ?magnitudes, fun a b _ => quotient_eq_tdiv a b⟩
  case rounds =>
    intro ma mb hma hmb
    exact ⟨restoringDiv_eq hma hmb, congrArg Prod.fst (restoringRounds_all hma hmb)⟩
  case magnitudes =>
    intro a b hb
    rw [restoringDiv_eq (magnitude_lt a) (magnitude_pos hb)]
    rfl

end Sys2Proof.Machine
end

section
/-! The arithmetic, logic and shift instructions (41 R160 to R168, 42 R190 to R196): the operations in numbers, and
that the two templates complete on readable sources and writable targets. -/

namespace Sys2Proof.Machine

/-! ### The operations with their flags in numbers -/

/-- The adder in numbers: the sum, CF and OF by the unsigned and the signed sum (R141, R142). -/
theorem add32_eq (a b : Word) (cin : Bool) :
    add32 a b cin =
      { value := a + b + BitVec.ofNat 32 cin.toNat
        flags := flagsOfResult (a + b + BitVec.ofNat 32 cin.toNat) (decide (2 ^ 32 ≤ a.toNat + b.toNat + cin.toNat))
          (outOfSigned (a.toInt + b.toInt + (cin.toNat : Int))) } := by
  have hval : (add32 a b cin).value = a + b + BitVec.ofNat 32 cin.toNat := by
    rw [add32_value]
    cases cin <;> rfl
  have hcf : carryInto 32 a b cin = decide (2 ^ 32 ≤ a.toNat + b.toNat + cin.toNat) := by
    rw [carryInto, Nat.mod_eq_of_lt a.isLt, Nat.mod_eq_of_lt b.isLt]
  have hflags : (add32 a b cin).flags = flagsOfResult (add32 a b cin).value (carryInto 32 a b cin)
      (carryInto 32 a b cin ^^ carryInto 31 a b cin) := resultFlags_eq _ _ _
  rw [carry_xor_eq_outOfSigned, hcf, hval] at hflags
  rw [← hval] at hflags ⊢
  rw [← hflags]

theorem add32_false_eq (a b : Word) :
    add32 a b false =
      { value := a + b
        flags := flagsOfResult (a + b) (decide (2 ^ 32 ≤ a.toNat + b.toNat)) (outOfSigned (a.toInt + b.toInt)) } := by
  simp [add32_eq]

/-- The carry of a subtraction is no borrow, but for a zero subtrahend (R163). -/
theorem sub_carry_iff (a b : Word) : 2 ^ 32 ≤ a.toNat + (-b).toNat ↔ b ≠ 0#32 ∧ b.toNat ≤ a.toNat := by
  have ha := a.isLt
  have hb := b.isLt
  rw [BitVec.toNat_neg, ne_eq, ← BitVec.toNat_inj, BitVec.toNat_ofNat]
  omega

/-- The overflow of a subtraction is that of the signed difference, but for the subtrahend without a negation
(R163). -/
theorem sub_overflow_eq (a b : Word) :
    outOfSigned (a.toInt + (-b).toInt) =
      if b = 0x80000000#32 then decide (2 ^ 31 ≤ a.toNat) else outOfSigned (a.toInt - b.toInt) := by
  have ha := a.isLt
  by_cases h : b = 0x80000000#32
  · have hneg : (-b).toInt = -2 ^ 31 := by
      subst h
      decide
    rw [if_pos h, hneg, outOfSigned, decide_eq_decide, BitVec.toInt_eq_toNat_cond]
    split <;> omega
  · have hb := b.isLt
    have hneg := BitVec.toNat_neg b
    rw [if_neg h, outOfSigned, outOfSigned, decide_eq_decide, BitVec.toInt_eq_toNat_cond a,
      BitVec.toInt_eq_toNat_cond b, BitVec.toInt_eq_toNat_cond (-b)]
    rw [← BitVec.toNat_inj, BitVec.toNat_ofNat] at h
    split <;> split <;> split <;> omega

theorem aluSub_eq (a b : Word) : aluSub a b = { value := a - b, flags := flagsOfDifference a b } := by
  rw [aluSub, twosComp_eq_neg, add32_false_eq, ← BitVec.sub_eq_add_neg, flagsOfDifference, sub_overflow_eq,
    decide_eq_decide.2 (sub_carry_iff a b)]

theorem aluSbb_eq (a b : Word) (cin : Bool) :
    aluSbb a b cin =
      { value := a - b + BitVec.ofNat 32 cin.toNat
        flags := flagsOfResult (a - b + BitVec.ofNat 32 cin.toNat)
          (decide (2 ^ 32 ≤ a.toNat + (-b).toNat + cin.toNat))
          (outOfSigned (a.toInt + (-b).toInt + (cin.toNat : Int))) } := by
  rw [aluSbb, twosComp_eq_neg, add32_eq, ← BitVec.sub_eq_add_neg]

theorem toNat_not_word (x : Word) : (~~~x).toNat = 2 ^ 32 - 1 - x.toNat := BitVec.toNat_not

/-- NEG carries only at 0 and overflows only at 0x80000000 (R165). -/
theorem aluNeg_eq (x : Word) :
    aluNeg x =
      { value := 0#32 - x
        flags := flagsOfResult (0#32 - x) (decide (x = 0#32)) (decide (x = 0x80000000#32)) } := by
  have hx := x.isLt
  have hval : ~~~x + 1#32 = 0#32 - x := by rw [BitVec.zero_sub, BitVec.neg_eq_not_add]
  have hcf : (2 ^ 32 ≤ (~~~x).toNat + (1#32).toNat) ↔ x = 0#32 := by
    rw [toNat_not_word, ← BitVec.toNat_inj, BitVec.toNat_ofNat, BitVec.toNat_ofNat]
    omega
  have hof : outOfSigned ((~~~x).toInt + (1#32).toInt) = decide (x = 0x80000000#32) := by
    rw [outOfSigned, decide_eq_decide, BitVec.toInt_eq_toNat_cond, toNat_not_word, ← BitVec.toNat_inj,
      BitVec.toNat_ofNat, show (1#32).toInt = 1 from rfl]
    split <;> omega
  rw [aluNeg, add32_false_eq, hval, hof, decide_eq_decide.2 hcf]

theorem logicResult_eq (r : Word) : logicResult r = { value := r, flags := flagsOfResult r false false } := by
  rw [← resultFlags_eq]
  rfl

theorem aluMul_eq (a b : Word) : aluMul a b = logicResult (BitVec.ofInt 32 (a.toInt * b.toInt)) := by
  rw [ofInt_mul_toInt]
  rfl

theorem aluDiv_eq (a : Word) {b : Word} (h : b ≠ 0#32) :
    aluDiv a b = .ok (logicResult (BitVec.ofInt 32 (a.toInt.tdiv b.toInt))) := by
  rw [aluDiv, if_neg h, quotient_eq_tdiv]

theorem aluDiv_zero (a : Word) : aluDiv a 0#32 = .error .divisionByZero := rfl

/-! ### The templates complete -/

theorem isNo_of_srcVal {s : State} {op : Operand} {v : Word} (h : srcVal s op = .ok v) : op.isNo = false := by
  cases op with
  | no => cases h
  | _ => rfl

theorem isNo_of_addrVal {s : State} {op : Operand} {v : Word} (h : addrVal s op = .ok v) : op.isNo = false := by
  cases op with
  | no => cases h
  | _ => rfl

theorem targetWritable_form {s : State} {op : Operand} (h : TargetWritable s op) :
    op.isNo = false ∧ op.isImm = false := by
  cases op with
  | no | imm v => exact h.elim
  | _ => exact ⟨rfl, rfl⟩

section Completion

variable {op1 op2 : Operand} {s : State} {a b : Word}

/-- The two-operand template completes on a readable source and a writable target (R160). -/
theorem aluTwo_completes {f : Bool → Word → Word → Except Fault AluResult} {v : Word} {fl : ArithFlags}
    (hb : srcVal s op1 = .ok b) (ha : srcVal s op2 = .ok a) (hw : TargetWritable s op2)
    (hf : f s.cf a b = .ok { value := v, flags := fl }) :
    ∃ u, writeOp s op2 v = .ok u ∧ outcome (aluTwo f op1 op2 s) = .next (u.setArith fl).advance := by
  obtain ⟨u, hu⟩ := writeOp_answers_iff (v := v).2 hw
  exact ⟨u, hu, outcome_eq_next.2 (aluTwo_eq_ok.2 ⟨isNo_of_srcVal hb, isNo_of_srcVal ha,
    (targetWritable_form hw).2, b, a, _, u, hb, ha, hf, hu, rfl⟩)⟩

/-- The one-operand template completes on a writable target it can read (R165, R194). -/
theorem aluOne_completes {f : Word → AluResult} {v : Word} {fl : ArithFlags} (ha : srcVal s op1 = .ok a)
    (hw : TargetWritable s op1) (hf : f a = { value := v, flags := fl }) :
    ∃ u, writeOp s op1 v = .ok u ∧ outcome (aluOne f op1 s) = .next (u.setArith fl).advance := by
  obtain ⟨u, hu⟩ := writeOp_answers_iff (v := v).2 hw
  obtain ⟨hno, himm⟩ := targetWritable_form hw
  refine ⟨u, hu, outcome_eq_next.2 (aluOne_eq_ok.2 ⟨hno, himm, a, u, ha, ?_, ?_⟩)⟩
  · rw [hf]
    exact hu
  · rw [hf]

end Completion

/-- Settles O27: the template on the adder, without and with the carry flag. -/
theorem addAndAdcResult : Obligations.AddAndAdcResult := by
  intro op1 op2 s a b hb ha hw
  exact ⟨aluTwo_completes hb ha hw (congrArg _ (add32_false_eq a b)),
    aluTwo_completes hb ha hw (congrArg _ (add32_eq a b s.cf))⟩

/-- Settles O28: the template on the subtractor, without and with the carry flag. -/
theorem subAndSbbResult : Obligations.SubAndSbbResult := by
  intro op1 op2 s a b hb ha hw
  exact ⟨aluTwo_completes hb ha hw (congrArg _ (aluSub_eq a b)),
    aluTwo_completes hb ha hw (congrArg _ (aluSbb_eq a b s.cf))⟩

/-- Settles O29: the one-operand template on the negation; CMP writes the flags of the subtractor only. -/
theorem negAndCmpResult : Obligations.NegAndCmpResult := by
  refine ⟨?neg, ?cmp⟩
  case neg =>
    intro op1 op2 s x hx hw
    exact aluOne_completes hx hw (aluNeg_eq x)
  case cmp =>
    intro op1 op2 s a b hb ha
    exact exec_cmp_eq_next.2 ⟨isNo_of_srcVal hb, isNo_of_srcVal ha, b, a, hb, ha, by rw [aluSub_eq]⟩

/-- Settles O30: the template on the multiplier. -/
theorem mulResult : Obligations.MulResult := by
  intro op1 op2 s a b hb ha hw
  exact aluTwo_completes hb ha hw (congrArg _ ((aluMul_eq a b).trans (logicResult_eq _)))

/-- An operation that faults is reported after the checks and both reads (R160). -/
theorem aluTwo_fault {f : Bool → Word → Word → Except Fault AluResult} {op1 op2 : Operand} {s : State} {a b : Word}
    {e : Fault} (hb : srcVal s op1 = .ok b) (ha : srcVal s op2 = .ok a) (himm : op2.isImm = false)
    (hf : f s.cf a b = .error e) : outcome (aluTwo f op1 op2 s) = .fault e := by
  rw [aluTwo, requirePresent_eq_ok (u := ()).2 (isNo_of_srcVal hb),
    requirePresent_eq_ok (u := ()).2 (isNo_of_srcVal ha), requireTarget_eq_ok (u := ()).2 himm, hb, ha]
  simp only [except_bind_ok, hf, except_bind_error, outcome_error]

/-- Settles O31: the template on the divider, which faults on a zero divisor. -/
theorem divResult : Obligations.DivResult := by
  intro op1 op2 s a b hb ha
  refine ⟨fun hne hw => aluTwo_completes hb ha hw ((aluDiv_eq a hne).trans (congrArg _ (logicResult_eq _))), ?zero⟩
  case zero =>
    intro hz himm
    exact aluTwo_fault hb ha himm (by rw [hz, aluDiv_zero])

/-- Settles O32: the templates on the bitwise operations. -/
theorem Instructions.logicResult : Obligations.LogicResult := by
  refine ⟨?two, ?not⟩
  case two =>
    intro op1 op2 s a b hb ha hw
    exact ⟨aluTwo_completes hb ha hw (congrArg _ (logicResult_eq _)),
      aluTwo_completes hb ha hw (congrArg _ (logicResult_eq _)),
      aluTwo_completes hb ha hw (congrArg _ (logicResult_eq _))⟩
  case not =>
    intro op1 op2 s x hx hw
    exact aluOne_completes hx hw (logicResult_eq _)

/-- The shifter's value left: a multiplication below a count of 32, else zero (R151). -/
theorem aluShl_value (a n : Word) :
    (n.toNat < 32 → (aluShl a n).value.toNat = a.toNat * 2 ^ n.toNat % 2 ^ 32)
      ∧ (32 ≤ n.toNat → (aluShl a n).value = 0#32) := by
  refine ⟨fun h => ?_, fun h => if_neg (by omega)⟩
  have hval : (aluShl a n).value = BitVec.ofNat 32 (a.toNat * 2 ^ n.toNat) := if_pos h
  rw [hval, BitVec.toNat_ofNat]

/-- The shifter's value right: a division below a count of 32, else zero (R151). -/
theorem aluShr_value (a n : Word) :
    (n.toNat < 32 → (aluShr a n).value.toNat = a.toNat / 2 ^ n.toNat)
      ∧ (32 ≤ n.toNat → (aluShr a n).value = 0#32) := by
  refine ⟨fun h => ?_, fun h => if_neg (by omega)⟩
  have hval : (aluShr a n).value = BitVec.ofNat 32 (a.toNat / 2 ^ n.toNat) := if_pos h
  rw [hval, BitVec.toNat_ofNat, Nat.mod_eq_of_lt (Nat.lt_of_le_of_lt (Nat.div_le_self _ _) a.isLt)]

/-- Settles O33: the template on the shifter. -/
theorem shiftResult : Obligations.ShiftResult := by
  intro op1 op2 s a n hn ha hw
  obtain ⟨hl, hl0⟩ := aluShl_value a n
  obtain ⟨hr, hr0⟩ := aluShr_value a n
  exact ⟨(aluShl a n).value, (aluShr a n).value, fun h => ⟨hl h, hr h⟩, fun h => ⟨hl0 h, hr0 h⟩,
    aluTwo_completes hn ha hw (congrArg _ (logicResult_eq _)),
    aluTwo_completes hn ha hw (congrArg _ (logicResult_eq _))⟩

end Sys2Proof.Machine
end

section
/-! Frames of the ALU instructions and of MOV and NOP (40 R157, 41 R160, 43 R210, R211), and what the jumps decide
after CMP (44 R232 to R237). -/

namespace Sys2Proof.Machine

/-- An operand written, the arithmetic flags set and EIP advanced: the frame of the ALU templates. -/
theorem targetFrame_of_alu {s u : State} {op : Operand} {v : Word} (f : ArithFlags) (hu : writeOp s op v = .ok u) :
    TargetFrame [.eip, .eflags] op s (u.setArith f).advance
      ∧ (targetReg op ≠ some .eflags → SameModeBits s (u.setArith f).advance) := by
  refine ⟨targetFrame_of_update (writeOp_frame hu) ?_ rfl ⟨rfl, rfl⟩, fun hop => ?_⟩
  · exact sameRegsBut_mono (sameRegsBut_append (setFlagsByte_frame u _) (setEip_frame _ _)) (by decide)
  · simp [SameModeBits, writeOp_flagsByte hu hop]

theorem aluTwo_frame {f : Bool → Word → Word → Except Fault AluResult} {op1 op2 : Operand} {s t : State}
    (h : outcome (aluTwo f op1 op2 s) = .next t) :
    TargetFrame [.eip, .eflags] op2 s t ∧ (targetReg op2 ≠ some .eflags → SameModeBits s t) := by
  obtain ⟨-, -, -, b, a, r, u, -, -, -, hu, rfl⟩ := aluTwo_eq_ok.1 (outcome_eq_next.1 h)
  exact targetFrame_of_alu r.flags hu

theorem aluOne_frame {f : Word → AluResult} {op1 : Operand} {s t : State} (h : outcome (aluOne f op1 s) = .next t) :
    TargetFrame [.eip, .eflags] op1 s t ∧ (targetReg op1 ≠ some .eflags → SameModeBits s t) := by
  obtain ⟨-, -, x, u, -, hu, rfl⟩ := aluOne_eq_ok.1 (outcome_eq_next.1 h)
  exact targetFrame_of_alu (f x).flags hu

/-- Settles O34: the eleven instructions are the one template. -/
theorem aluFrame : Obligations.AluFrame := by
  intro op1 op2 s t i hi h
  simp only [List.mem_cons, List.not_mem_nil, or_false] at hi
  rcases hi with rfl | rfl | rfl | rfl | rfl | rfl | rfl | rfl | rfl | rfl | rfl <;> exact aluTwo_frame h

/-- Settles O35: NEG and NOT are the one-operand template; CMP writes flags and EIP. -/
theorem negNotCmpFrame : Obligations.NegNotCmpFrame := by
  refine ⟨?one, ?cmp⟩
  case one =>
    intro op1 op2 s t i hi h
    simp only [List.mem_cons, List.not_mem_nil, or_false] at hi
    obtain rfl | rfl := hi <;> exact aluOne_frame h
  case cmp =>
    intro op1 op2 s t h
    obtain ⟨-, -, b, a, -, -, rfl⟩ := exec_cmp_eq_next.1 h
    exact ⟨sameRegsBut_mono (sameRegsBut_append (setFlagsByte_frame s _) (setEip_frame _ _)) (by decide),
      by simp [SameModeBits], fun _ => rfl, rfl, rfl⟩

/-- Settles O36: MOV by the write of its target, NOP by the advance. -/
theorem movAndNopResultAndFrame : Obligations.MovAndNopResultAndFrame := by
  refine ⟨?result, ?frame, ?nop⟩
  case result =>
    intro op1 op2 s v hv hw
    obtain ⟨u, hu⟩ := writeOp_answers_iff (v := v).2 hw
    obtain ⟨hno, himm⟩ := targetWritable_form hw
    exact ⟨u, hu, exec_mov_eq_next.2 ⟨isNo_of_srcVal hv, hno, himm, v, hv, u, hu, rfl⟩⟩
  case frame =>
    intro op1 op2 s t h
    obtain ⟨-, -, -, v, -, u, hu, rfl⟩ := exec_mov_eq_next.1 h
    exact targetFrame_of_update (writeOp_frame hu) (setEip_frame u _) rfl ⟨rfl, rfl⟩
  case nop =>
    intro op1 op2 s
    exact ⟨s.advance, rfl, rfl, setEip_frame s _, fun _ => rfl, rfl, rfl⟩

/-- ZF after a comparison says that the operands are equal. -/
theorem zf_flagsOfDifference (a b : Word) : (flagsOfDifference a b).zf = true ↔ a = b := by
  have ha := a.isLt
  have hb := b.isLt
  rw [← BitVec.toNat_inj]
  simp only [flagsOfDifference, flagsOfResult, decide_eq_true_eq, BitVec.toNat_sub]
  omega

/-- SF against OF after a comparison says the signed order, unless the subtrahend has no negation (R163). -/
theorem of_eq_sf_flagsOfDifference {a b : Word} (h : b ≠ 0x80000000#32) :
    ((flagsOfDifference a b).of = (flagsOfDifference a b).sf) ↔ b.toInt ≤ a.toInt := by
  have ha := a.isLt
  have hb := b.isLt
  rw [ne_eq, ← BitVec.toNat_inj, BitVec.toNat_ofNat] at h
  simp only [flagsOfDifference, flagsOfResult, outOfSigned, ← BitVec.toNat_inj, BitVec.toNat_ofNat, if_neg h,
    decide_eq_decide, BitVec.toNat_sub, BitVec.toInt_eq_toNat_cond]
  split <;> split <;> omega

/-- Of two equal operands SF is clear, and OF is set only for 0x80000000. -/
theorem of_ne_sf_flagsOfDifference_self (a : Word) :
    ((flagsOfDifference a a).of ≠ (flagsOfDifference a a).sf) ↔ a = 0x80000000#32 := by
  have hsf : (flagsOfDifference a a).sf = false := by simp [flagsOfDifference, flagsOfResult]
  rw [hsf]
  by_cases h : a = 0x80000000#32
  · subst h
    decide
  · simp [flagsOfDifference, flagsOfResult, outOfSigned, h]

/-- Settles O42: the conditions read the three flags CMP leaves. -/
theorem jumpsAfterCompareDecideSignedOrder : Obligations.JumpsAfterCompareDecideSignedOrder := by
  intro op1 op2 s t a b hb ha h
  have hflags : arithOf t.flagsByte = flagsOfDifference a b := by
    have ht := negAndCmpResult.2 op1 op2 s a b hb ha
    rw [h] at ht
    cases ht
    exact arithOf_withArith _ _
  have hz : flagZF t.flagsByte = (flagsOfDifference a b).zf := congrArg ArithFlags.zf hflags
  have hs : flagSF t.flagsByte = (flagsOfDifference a b).sf := congrArg ArithFlags.sf hflags
  have ho : flagOF t.flagsByte = (flagsOfDifference a b).of := congrArg ArithFlags.of hflags
  have heq := zf_flagsOfDifference a b
  simp only [condZ, condNZ, condG, condGE, condL, condLE, hz, hs, ho, Bool.not_eq_true', Bool.and_eq_true, beq_iff_eq,
    bne_iff_ne, ← Bool.not_eq_true, heq]
  refine ⟨trivial, trivial, fun hne => ?order, ?le⟩
  case order =>
    have hord := of_eq_sf_flagsOfDifference (a := a) hne
    have hint : a = b ↔ a.toInt = b.toInt := BitVec.toInt_inj.symm
    rw [ne_eq, hord, hint]
    omega
  case le =>
    constructor
    · rintro ⟨rfl, hne⟩
      have h80 := (of_ne_sf_flagsOfDifference_self a).1 hne
      exact ⟨h80, h80⟩
    · rintro ⟨rfl, rfl⟩
      exact ⟨rfl, (of_ne_sf_flagsOfDifference_self _).2 rfl⟩

end Sys2Proof.Machine
end

section
/-! The stack instructions (43 R212 to R216): what they leave, and their frames. -/

namespace Sys2Proof.Machine

/-- A push in full, where its slot may be written (R216). -/
theorem push32_ok {s : State} {pa : Nat} (v : Word) (hpa : mmuTranslate s (s.esp - 4#32) .write = .ok pa)
    (hb : pa + 3 ≤ s.capacity.toNat) :
    push32 s v = .ok ((s.setEsp (s.esp - 4#32)).setRam (s.ram.writeWord pa v)) :=
  push32_eq_ok.2 ⟨pa, hpa, hb, rfl⟩

/-- The bytes a push of a word changes are those of its slot. -/
theorem push32_sameMemoryBut {s u : State} {v : Word} {pa : Nat} (a : Word) (h : push32 s v = .ok u)
    (hpa : mmuTranslate s (s.esp - 4#32) .write = .ok pa) : SameMemoryBut pa 4 s (u.setEip a) := by
  obtain ⟨pa', hpa', -, rfl⟩ := push32_eq_ok.1 h
  rw [hpa] at hpa'
  cases hpa'
  exact fun x hx => read_writeWord_other s.ram v hx

/-- The byte a push of the flags byte changes is the first of its slot (R214). -/
theorem push8_sameMemoryBut {s u : State} {b : Byte} {pa : Nat} (a : Word) (h : push8 s b = .ok u)
    (hpa : mmuTranslate s (s.esp - 4#32) .write = .ok pa) : SameMemoryBut pa 1 s (u.setEip a) := by
  obtain ⟨pa', hpa', -, rfl⟩ := push8_eq_ok.1 h
  rw [hpa] at hpa'
  cases hpa'
  exact fun x hx => read_write_other s.ram b (by omega)

/-- Only ESP and EIP of the registers change in a push followed by a transfer or the advance. -/
theorem push_setEip_frame {s u : State} (a : Word) (h : SameRegsBut [.esp] s u) :
    SameRegsBut [.esp, .eip] s (u.setEip a) := sameRegsBut_append h (setEip_frame u a)

/-- Settles O37: the push of the value read under the new ESP. -/
theorem pushResult : Obligations.PushResult := by
  intro op1 op2 s v pa hv hpa hb
  have hpush := push32_ok v hpa hb
  obtain ⟨hregs, hmach, -⟩ := push32_frame hpush
  exact ⟨_, exec_push_eq_next.2 ⟨isNo_of_srcVal hv, v, hv, _, hpush, rfl⟩, rfl, rfl,
    readWord_writeWord_self s.ram pa v, push32_sameMemoryBut _ hpush hpa, push_setEip_frame _ hregs, hmach⟩

/-- ESP may be written at every privilege level (R136). -/
theorem writeOp_esp (s : State) (v : Word) : writeOp s (.reg 4#32) v = .ok (s.setEsp v) :=
  regWrite_code (r := .esp) v rfl (.inr rfl)

/-- Settles O38: the write of the popped value, then the increment of the ESP it left. -/
theorem popResult : Obligations.PopResult := by
  refine ⟨?write, ?esp⟩
  case write =>
    intro op1 op2 s v hv hw
    obtain ⟨u, hu⟩ := writeOp_answers_iff (v := v).2 hw
    obtain ⟨hno, himm⟩ := targetWritable_form hw
    exact ⟨u, hu, exec_pop_eq_next.2 ⟨hno, himm, v, hv, u, hu, rfl⟩⟩
  case esp =>
    intro op2 s v hv
    exact ⟨_, exec_pop_eq_next.2 ⟨rfl, rfl, v, hv, _, writeOp_esp s v, rfl⟩, rfl⟩

/-- ESP, EFLAGS and EIP written, and nothing else: the frame of POPF. -/
theorem popf_frame (s : State) (v : Word) (b : Byte) :
    SameRegsBut [.esp, .eip, .eflags] s ((s.setEsp v).setFlagsByte b).advance :=
  sameRegsBut_mono (sameRegsBut_append (sameRegsBut_append (setEsp_frame s v) (setFlagsByte_frame _ b))
    (setEip_frame _ _)) (by decide)

/-- Settles O39: the push and the pop of the one byte. -/
theorem pushfAndPopfResult : Obligations.PushfAndPopfResult := by
  refine ⟨?pushf, ?popf⟩
  case pushf =>
    intro op1 op2 s pa hk hpa hb
    have hpush : push8 s s.flagsByte = .ok _ := push8_eq_ok.2 ⟨pa, hpa, hb, rfl⟩
    obtain ⟨hregs, hmach, -⟩ := push8_frame hpush
    exact ⟨_, exec_pushf_eq_next.2 ⟨hk, _, hpush, rfl⟩, rfl, rfl, read_write_self s.ram pa s.flagsByte,
      push8_sameMemoryBut _ hpush hpa, push_setEip_frame _ hregs, hmach⟩
  case popf =>
    intro op1 op2 s pa hk hpa hb
    have hread : memRead8 s s.esp = .ok (s.ram.read pa) := memRead8_eq_ok.2 ⟨pa, hpa, hb, rfl⟩
    exact ⟨_, exec_popf_eq_next.2 ⟨hk, _, hread, rfl⟩, rfl, rfl, rfl, fun _ => rfl, popf_frame s _ _, rfl, rfl⟩

/-- Settles O40: each instruction's inversion, then the frame of its push, write or pop. -/
theorem stackFrame : Obligations.StackFrame := by
  refine ⟨?push, ?pushf, ?pop, ?popf, ?ret⟩
  case push =>
    intro op1 op2 s t i hi h
    have of_push32 {u : State} {v : Word} (a : Word) (hu : push32 s v = .ok u) :
        SameRegsBut [.esp, .eip] s (u.setEip a) ∧ SameMachine s (u.setEip a)
          ∧ ∀ pa, mmuTranslate s (s.esp - 4#32) .write = .ok pa → SameMemoryBut pa 4 s (u.setEip a) := by
      obtain ⟨hregs, hmach, -⟩ := push32_frame hu
      exact ⟨push_setEip_frame a hregs, hmach, fun pa hpa => push32_sameMemoryBut a hu hpa⟩
    simp only [List.mem_cons, List.not_mem_nil, or_false] at hi
    obtain rfl | rfl := hi
    · obtain ⟨-, v, -, u, hu, rfl⟩ := exec_push_eq_next.1 h
      exact of_push32 _ hu
    · obtain ⟨-, u, hu, a, -, rfl⟩ := exec_call_eq_next.1 h
      exact of_push32 a hu
  case pushf =>
    intro op1 op2 s t h
    obtain ⟨-, u, hu, rfl⟩ := exec_pushf_eq_next.1 h
    obtain ⟨hregs, hmach, -⟩ := push8_frame hu
    exact ⟨push_setEip_frame _ hregs, hmach, fun pa hpa => push8_sameMemoryBut _ hu hpa⟩
  case pop =>
    intro op1 op2 s t h
    obtain ⟨-, -, v, -, u, hu, rfl⟩ := exec_pop_eq_next.1 h
    exact targetFrame_of_update (writeOp_frame hu) (sameRegsBut_append (setEsp_frame u _) (setEip_frame _ _)) rfl
      ⟨rfl, rfl⟩
  case popf =>
    intro op1 op2 s t h
    obtain ⟨-, b, -, rfl⟩ := exec_popf_eq_next.1 h
    exact ⟨popf_frame s _ b, fun _ => rfl, rfl, rfl⟩
  case ret =>
    intro op1 op2 s t h
    obtain ⟨ra, -, rfl⟩ := exec_ret_eq_next.1 h
    exact ⟨sameRegsBut_append (setEsp_frame s _) (setEip_frame _ ra), fun _ => rfl, rfl, rfl⟩

end Sys2Proof.Machine
end

section
/-! Control flow (44 R230 to R240): jumps, CALL and RET, and that POP undoes PUSH and RET undoes CALL. -/

namespace Sys2Proof.Machine

theorem isNo_eq_true {op : Operand} : op.isNo = true ↔ op = .no := by
  cases op <;> simp [Operand.isNo]

/-- The template of the conditional jumps, case by case (R232). -/
theorem condJump_cases (c : Byte → Bool) (op1 : Operand) (s : State) :
    (c s.flagsByte = true → ∀ a, addrVal s op1 = .ok a → outcome (condJump c op1 s) = .next (s.setEip a))
      ∧ (c s.flagsByte = true → ∀ f, addrVal s op1 = .error f → outcome (condJump c op1 s) = .fault f)
      ∧ (c s.flagsByte = false → op1 ≠ .no → outcome (condJump c op1 s) = .next s.advance) := by
  refine ⟨fun hc a ha => ?_, fun hc f hf => ?_, fun hc hno => ?_⟩
  · exact outcome_eq_next.2 (condJump_eq_ok.2 ⟨isNo_of_addrVal ha, .inl ⟨hc, a, ha, rfl⟩⟩)
  · cases hno : op1.isNo with
    | true =>
      obtain rfl := isNo_eq_true.1 hno
      cases hf
      rfl
    | false =>
      rw [condJump, requirePresent_eq_ok (u := ()).2 hno, except_bind_ok, if_pos hc, hf]
      rfl
  · have hpresent : op1.isNo = false := by rwa [← Bool.not_eq_true, isNo_eq_true]
    exact outcome_eq_next.2 (condJump_eq_ok.2 ⟨hpresent, .inr ⟨hc, rfl⟩⟩)

/-- Settles O41: JMP by its inversion, the eight others by the template on their condition. -/
theorem jumpsTakenExactlyOnTheirCondition : Obligations.JumpsTakenExactlyOnTheirCondition := by
  intro op1 op2 s
  refine ⟨fun a ha => exec_jmp_eq_next.2 ⟨isNo_of_addrVal ha, a, ha, rfl⟩, fun p hp => ?_⟩
  simp only [List.mem_cons, List.not_mem_nil, or_false] at hp
  rcases hp with rfl | rfl | rfl | rfl | rfl | rfl | rfl | rfl
  · exact condJump_cases condZ op1 s
  · exact condJump_cases condZ op1 s
  · exact condJump_cases condNZ op1 s
  · exact condJump_cases condNZ op1 s
  · exact condJump_cases condG op1 s
  · exact condJump_cases condGE op1 s
  · exact condJump_cases condL op1 s
  · exact condJump_cases condLE op1 s

/-- Settles O43: CALL by the push and the target read after it, RET by the pop. -/
theorem callAndRetResult : Obligations.CallAndRetResult := by
  refine ⟨?call, ?ret⟩
  case call =>
    intro op1 op2 s pa a hpa hb s1 ha
    exact ⟨exec_call_eq_next.2 ⟨isNo_of_addrVal ha, s1, push32_ok _ hpa hb, a, ha, rfl⟩,
      readWord_writeWord_self s.ram pa _⟩
  case ret =>
    intro op1 op2 s ra h
    exact exec_ret_eq_next.2 ⟨ra, h, rfl⟩

/-- Where a write was translated to, a read at the same privilege goes too, as long as the page's entry stands
(R81). -/
theorem translate_read_of_write {s t : State} {va : Word} {pa : Nat} (h : mmuTranslate s va .write = .ok pa)
    (hpg : t.pg = s.pg) (hc : t.capacity = s.capacity) (hptp : t.ptp = s.ptp) (hpl : t.pl = s.pl)
    (he : s.pg = true → t.ram.readWord (pteAddr s va) = s.ram.readWord (pteAddr s va)) :
    mmuTranslate t va .read = .ok pa := by
  cases hp : s.pg with
  | false =>
    rw [translate_real hp] at h
    rw [translate_real (hpg.trans hp), h]
  | true =>
    obtain ⟨hb, hpr, hperm, rfl⟩ := (translate_paged_eq_ok hp).1 h
    have hpa : pteAddr t va = pteAddr s va := by simp only [pteAddr, hptp]
    exact translate_of_entry (hpg.trans hp) hpa (hc ▸ hb) (he hp) hpr (hpl ▸ permitted_read_of_write hperm)

/-- The word a push stored, read back from its slot (R216). -/
theorem memRead32_pushed {s u : State} {v : Word} (a : Word) (h : push32 s v = .ok u)
    (he : s.pg = true → u.ram.readWord (pteAddr s (s.esp - 4#32)) = s.ram.readWord (pteAddr s (s.esp - 4#32))) :
    memRead32 (u.setEip a) (u.setEip a).esp = .ok v := by
  obtain ⟨pa, hpa, hb, rfl⟩ := push32_eq_ok.1 h
  refine memRead32_eq_ok.2 ⟨pa, translate_read_of_write hpa rfl rfl rfl rfl he, hb, ?_⟩
  rw [setEip_ram, setRam_ram, readWord_writeWord_self]

theorem word_sub_add_four (x : Word) : x - 4#32 + 4#32 = x := BitVec.sub_add_cancel x 4#32

theorem push32_esp {s u : State} {v : Word} (h : push32 s v = .ok u) : u.esp = s.esp - 4#32 := by
  obtain ⟨pa, -, -, rfl⟩ := push32_eq_ok.1 h
  rfl

theorem push32_getReg {s u : State} {v : Word} (h : push32 s v = .ok u) {r : Reg} (hr : r ≠ .esp) :
    u.getReg r = s.getReg r := (push32_frame h).1 r (by simpa using hr)

/-- EFLAGS written whole and read back: the 24 low bits are zero (R30). -/
theorem eflags_roundtrip (s : State) : s.eflags.extractLsb' 24 8 ++ 0#24 = s.eflags := by
  rw [State.eflags, BitVec.extractLsb'_append_eq_left]

/-- A register given the content it has elsewhere holds that content. -/
theorem getReg_setReg_getReg (s t : State) (r : Reg) : (t.setReg r (s.getReg r)).getReg r = s.getReg r := by
  rw [getReg_setReg]
  split
  · next hr =>
    subst hr
    exact eflags_roundtrip s
  · rfl

/-- POP of a register after its PUSH: the register keeps its content, ESP comes back and EIP has advanced twice. -/
theorem pop_after_push {s u : State} {v : Word} {r : Reg} (hpush : push32 s v = .ok u) (hv : v = s.getReg r)
    (hesp : r ≠ .esp) (heip : r ≠ .eip) :
    SameRegsBut [.eip] s ((u.advance.setReg r v).setEsp ((u.advance.setReg r v).esp + 4#32)).advance
      ∧ ((u.advance.setReg r v).setEsp ((u.advance.setReg r v).esp + 4#32)).advance.eip = s.eip + 24#32 := by
  have hesp' : (u.advance.setReg r v).esp = s.esp - 4#32 := by
    have h : (u.advance.setReg r v).esp = u.esp := getReg_setReg_other u.advance r .esp v hesp.symm
    rw [h, push32_esp hpush]
  have heip' : (u.advance.setReg r v).eip = s.eip + 12#32 := by
    have h : (u.advance.setReg r v).eip = u.eip + 12#32 := getReg_setReg_other u.advance r .eip v heip.symm
    rw [h, show u.eip = s.eip from push32_getReg hpush (r := .eip) (by decide)]
  refine ⟨fun r' hr' => ?_, ?_⟩
  · have hr' : r' ≠ .eip := by simpa using hr'
    rw [advance_getReg _ hr', hesp', word_sub_add_four]
    by_cases hse : r' = .esp
    · subst hse
      rfl
    · rw [setEsp_getReg _ _ hse]
      by_cases hrr : r' = r
      · subst hrr hv
        exact getReg_setReg_getReg s u.advance r'
      · rw [getReg_setReg_other _ _ _ _ hrr, advance_getReg _ hr', push32_getReg hpush hse]
  · rw [advance_eip, setEsp_eip, heip']
    bv_omega

/-- Settles O44: the return reads the slot of the push, through the same entry. -/
theorem popUndoesPushAndRetUndoesCall : Obligations.PopUndoesPushAndRetUndoesCall := by
  refine ⟨?pop, ?ret⟩
  case pop =>
    intro c x y s t hw hesp heip h he
    obtain ⟨r, hc, hhas, hp⟩ := hw
    simp only [targetReg, hc, ne_eq, Option.some.injEq] at hesp heip
    obtain ⟨-, v, hv, u, hu, rfl⟩ := exec_push_eq_next.1 h
    obtain ⟨r', hc', -, hval⟩ := regRead_eq_ok.1 hv
    obtain rfl : r = r' := Option.some.inj (hc.symm.trans hc')
    have hv' : v = s.getReg r := hval.trans (setEsp_getReg s _ hesp)
    obtain ⟨-, ⟨hpg, -⟩, hf⟩ := push32_frame hu
    have hwrite : writeOp u.advance (.reg c) v = .ok (u.advance.setReg r v) := by
      refine regWrite_eq_ok.2 ⟨r, hc, ?_, hp.imp_left fun hk => (pl_congr hf).trans hk, rfl⟩
      rwa [advance_hasReg, State.hasReg, hpg]
    obtain ⟨hregs, heip'⟩ := pop_after_push hu hv' hesp heip
    exact ⟨_, exec_pop_eq_next.2 ⟨rfl, rfl, v, memRead32_pushed _ hu he, _, hwrite, rfl⟩, hregs, heip',
      setReg_sameMemory u.advance r v⟩
  case ret =>
    intro op1 op2 x y s t h he
    obtain ⟨-, u, hu, a, -, rfl⟩ := exec_call_eq_next.1 h
    refine ⟨_, exec_ret_eq_next.2 ⟨_, memRead32_pushed a hu he, rfl⟩, rfl, fun r hr => ?_, fun _ => rfl⟩
    have hr : r ≠ .eip := by simpa using hr
    rw [setEip_getReg _ _ hr, setEip_esp, push32_esp hu, word_sub_add_four]
    by_cases hse : r = .esp
    · subst hse
      rfl
    · rw [setEsp_getReg _ _ hse, setEip_getReg _ _ hr, push32_getReg hu hse]

end Sys2Proof.Machine
end

section
/-! The system instructions and the trap (45 R250 to R256, 60 R289, R290, R293): entry and return in full, and that
the return undoes the entry. -/

namespace Sys2Proof.Machine

/-- Settles O45: the write of IF, which keeps the rest of the flags byte. -/
theorem cliAndStiResult : Obligations.CliAndStiResult := by
  intro op1 op2 s hk p hp
  have written (e : Bool) : flagIF (s.setIF e).advance.flagsByte = e
      ∧ flagPL (s.setIF e).advance.flagsByte = flagPL s.flagsByte
      ∧ arithOf (s.setIF e).advance.flagsByte = arithOf s.flagsByte ∧ (s.setIF e).advance.eip = s.eip + 12#32
      ∧ SameRegsBut [.eip, .eflags] s (s.setIF e).advance ∧ SameMemory s (s.setIF e).advance
      ∧ SameMachine s (s.setIF e).advance :=
    ⟨flagIF_withIF _ e, flagPL_withIF _ e, arithOf_withIF _ e, rfl,
      sameRegsBut_mono (sameRegsBut_append (setFlagsByte_frame s _) (setEip_frame _ _)) (by decide),
      fun _ => rfl, rfl, rfl⟩
  simp only [List.mem_cons, List.not_mem_nil, or_false] at hp
  obtain rfl | rfl := hp
  · exact ⟨_, exec_cli_eq_next.2 ⟨hk, rfl⟩, written false⟩
  · exact ⟨_, exec_sti_eq_next.2 ⟨hk, rfl⟩, written true⟩

/-- A meaning that begins with the privilege test faults out of kernel mode (R293). -/
theorem requireKernel_fault {s : State} (h : s.pl ≠ kernelPL) (g : Unit → Except Fault State) :
    outcome (requireKernel s >>= g) = .fault .privilegeViolation := by
  rw [requireKernel, if_neg h]
  rfl

/-- Settles O46: each of the six begins with the privilege test. -/
theorem kernelOnlyInstructionsFaultElsewhere : Obligations.KernelOnlyInstructionsFaultElsewhere := by
  intro op1 op2 s hs i hi
  simp only [List.mem_cons, List.not_mem_nil, or_false] at hi
  rcases hi with rfl | rfl | rfl | rfl | rfl | rfl <;> exact requireKernel_fault hs _

/-! ### Trap entry -/

/-- The state between the two pushes of a trap entry: the flags byte is in the first slot (R252). -/
def trapSaved (s : State) (pa1 : Nat) : State :=
  (s.enterKernel.setEsp (s.esp - 4#32)).setRam (s.ram.write pa1 s.enterKernel.flagsByte)

/-- The state a trap entry leaves: EIP + 12 in the second slot, EIP at the target (R252). -/
def trapEntered (s : State) (pa1 pa2 : Nat) (v : Word) : State :=
  (((trapSaved s pa1).setEsp (s.esp - 8#32)).setRam
    ((trapSaved s pa1).ram.writeWord pa2 (s.eip + 12#32))).setEip v

section TrapFields

variable (s : State) (pa1 pa2 : Nat) (v : Word)

@[simp] theorem trapSaved_ram : (trapSaved s pa1).ram = s.ram.write pa1 s.enterKernel.flagsByte := by
  simp [trapSaved]
@[simp] theorem trapSaved_capacity : (trapSaved s pa1).capacity = s.capacity := by simp [trapSaved]
@[simp] theorem trapSaved_pg : (trapSaved s pa1).pg = s.pg := by simp [trapSaved]
@[simp] theorem trapSaved_ptp : (trapSaved s pa1).ptp = s.ptp := by simp [trapSaved]

@[simp] theorem trapEntered_ram : (trapEntered s pa1 pa2 v).ram =
    (s.ram.write pa1 s.enterKernel.flagsByte).writeWord pa2 (s.eip + 12#32) := by simp [trapEntered]
@[simp] theorem trapEntered_eip : (trapEntered s pa1 pa2 v).eip = v := by simp [trapEntered]
@[simp] theorem trapEntered_esp : (trapEntered s pa1 pa2 v).esp = s.esp - 8#32 := by simp [trapEntered]
@[simp] theorem trapEntered_flagsByte : (trapEntered s pa1 pa2 v).flagsByte = s.enterKernel.flagsByte := by
  simp [trapEntered, trapSaved]
@[simp] theorem trapEntered_capacity : (trapEntered s pa1 pa2 v).capacity = s.capacity := by simp [trapEntered]
@[simp] theorem trapEntered_pg : (trapEntered s pa1 pa2 v).pg = s.pg := by simp [trapEntered]
@[simp] theorem trapEntered_ptp : (trapEntered s pa1 pa2 v).ptp = s.ptp := by simp [trapEntered]
@[simp] theorem trapEntered_pl : (trapEntered s pa1 pa2 v).pl = kernelPL := by
  rw [State.pl, trapEntered_flagsByte, flagPL_enterKernel]

end TrapFields

/-- A trap entry in full: its target, its two slots and the state it leaves (R252, R289). -/
theorem trapEnter_eq_ok_iff {target : State → Except Fault Word} {s t : State} :
    trapEnter target s = .ok t ↔ ∃ v pa1 pa2, target s.enterKernel = .ok v
      ∧ mmuTranslate s.enterKernel (s.esp - 4#32) .write = .ok pa1 ∧ pa1 ≤ s.capacity.toNat
      ∧ mmuTranslate (trapSaved s pa1) (s.esp - 8#32) .write = .ok pa2 ∧ pa2 + 3 ≤ s.capacity.toNat
      ∧ t = trapEntered s pa1 pa2 v := by
  rw [trapEnter_eq_ok]
  constructor
  · rintro ⟨v, s2, s3, hv, h2, h3, rfl⟩
    obtain ⟨pa1, hpa1, hb1, rfl⟩ := push8_eq_ok.1 h2
    obtain ⟨pa2, hpa2, hb2, rfl⟩ := push32_eq_ok.1 h3
    refine ⟨v, pa1, pa2, hv, hpa1, hb1, ?_, hb2, ?_⟩
    · rw [← word_sub_four_four]
      exact hpa2
    · rw [trapEntered, ← word_sub_four_four]
      rfl
  · rintro ⟨v, pa1, pa2, hv, hpa1, hb1, hpa2, hb2, rfl⟩
    rw [← word_sub_four_four] at hpa2
    refine ⟨v, trapSaved s pa1, _, hv, push8_eq_ok.2 ⟨pa1, hpa1, hb1, rfl⟩,
      push32_eq_ok.2 ⟨pa2, hpa2, hb2, rfl⟩, ?_⟩
    rw [trapEntered, ← word_sub_four_four]
    rfl

section Trap

variable {s : State} {pa1 pa2 : Nat}

/-- The two slots of a trap entry do not meet, whatever pages they lie in: their offsets differ by four. -/
theorem trap_slots_apart (h1 : mmuTranslate s.enterKernel (s.esp - 4#32) .write = .ok pa1)
    (h2 : mmuTranslate (trapSaved s pa1) (s.esp - 8#32) .write = .ok pa2) : pa1 < pa2 ∨ pa2 + 4 ≤ pa1 := by
  have hm1 := translate_mod_page h1
  have hm2 := translate_mod_page h2
  have hesp := s.esp.isLt
  rw [BitVec.toNat_sub] at hm1 hm2
  simp only [BitVec.toNat_ofNat] at hm1 hm2
  omega

/-- The saved flags byte stands after the second push. -/
theorem read_trapEntered_flags (v : Word) (h1 : mmuTranslate s.enterKernel (s.esp - 4#32) .write = .ok pa1)
    (h2 : mmuTranslate (trapSaved s pa1) (s.esp - 8#32) .write = .ok pa2) :
    (trapEntered s pa1 pa2 v).ram.read pa1 = s.enterKernel.flagsByte := by
  rw [trapEntered_ram, read_writeWord_other _ _ (trap_slots_apart h1 h2), read_write_self]

theorem readWord_trapEntered (v : Word) : (trapEntered s pa1 pa2 v).ram.readWord pa2 = s.eip + 12#32 := by
  rw [trapEntered_ram, readWord_writeWord_self]

/-- The bytes a trap entry changes are those of its two slots. -/
theorem read_trapEntered_other (v : Word) {x : Nat} (hx1 : x ≠ pa1) (hx2 : x < pa2 ∨ pa2 + 4 ≤ x) :
    (trapEntered s pa1 pa2 v).ram.read x = s.ram.read x := by
  rw [trapEntered_ram, read_writeWord_other _ _ hx2, read_write_other _ _ hx1]

end Trap

/-- Settles O47: the entry in full, its target that of each instruction. -/
theorem trapEntrySavesAndTransfers : Obligations.TrapEntrySavesAndTransfers := by
  intro op1 op2 s pa1 pa2 k m hpa1 hb1 hpa2 hb2 p hp target htarget
  have entered {f : State → Except Fault Word} (hf : f s.enterKernel = .ok target) :
      trapEnter f s = .ok (trapEntered s pa1 pa2 target) :=
    trapEnter_eq_ok_iff.2 ⟨target, pa1, pa2, hf, hpa1, hb1, hpa2, hb2, rfl⟩
  have hexec : exec p.1 s = .next (trapEntered s pa1 pa2 target) := by
    simp only [List.mem_cons, List.not_mem_nil, or_false] at hp
    obtain rfl | rfl := hp
    · have hno : op1.isNo = false := by
        cases hv : srcVal k op1 with
        | ok v => exact isNo_of_srcVal hv
        | error f =>
          rw [hv] at htarget
          cases htarget
      exact exec_int_eq_next.2 ⟨hno, entered htarget⟩
    · exact exec_sysenter_eq_next.2 ⟨isNo_of_addrVal htarget, entered htarget⟩
  obtain ⟨hregs, hmach, hflags⟩ := trapEnter_frame (entered (f := fun _ => .ok target) rfl)
  have hfl := trapEntered_flagsByte s pa1 pa2 target
  exact ⟨_, hexec, trapEntered_eip s pa1 pa2 target, trapEntered_esp s pa1 pa2 target,
    by rw [hfl, flagPL_enterKernel], by rw [hfl, flagIF_enterKernel], by rw [hfl, arithOf_enterKernel],
    (read_trapEntered_flags target hpa1 hpa2).trans hfl.symm, readWord_trapEntered target, hregs, hmach,
    fun x hx1 hx2 => read_trapEntered_other target hx1 hx2⟩

/-! ### Trap return -/

/-- The final flags byte of a return, bit by bit (R253). -/
theorem returnFlags_eq : ∀ b : Byte, returnFlags b = 0xC0#8 ||| (b &&& 0x3E#8) ||| 0x01#8 := by decide

/-- EIP, ESP and EFLAGS are the registers a trap return writes. -/
theorem trapReturn_frame (s : State) (v ra : Word) (b : Byte) :
    SameRegsBut [.eip, .esp, .eflags] s (((s.setEsp v).setFlagsByte b).setEip ra) :=
  sameRegsBut_mono (sameRegsBut_append (sameRegsBut_append (setEsp_frame s v) (setFlagsByte_frame _ b))
    (setEip_frame _ ra)) (by decide)

/-- Settles O48: the two pops and the flags byte of the return. -/
theorem trapReturnRestoresAndLeavesKernel : Obligations.TrapReturnRestoresAndLeavesKernel := by
  intro op1 op2 s ra b hk hra hb i hi
  have hret := trapReturn_eq_ok_iff.2 ⟨hk, ra, b, hra, hb, rfl⟩
  refine ⟨((s.setEsp (s.esp + 8#32)).setFlagsByte (returnFlags b)).setEip ra, ?_, rfl, rfl,
    flagPL_returnFlags b, flagIF_returnFlags b, arithOf_returnFlags b, returnFlags_eq b,
    trapReturn_frame s _ ra _, fun _ => rfl, rfl, rfl⟩
  simp only [List.mem_cons, List.not_mem_nil, or_false] at hi
  obtain rfl | rfl := hi <;> exact outcome_eq_next.2 hret

/-- The return right after an entry pops what the entry pushed, while the entries of the two pages stand. -/
theorem trapReturn_trapEntered {s : State} {pa1 pa2 : Nat} (v : Word)
    (hpa1 : mmuTranslate s.enterKernel (s.esp - 4#32) .write = .ok pa1) (hb1 : pa1 ≤ s.capacity.toNat)
    (hpa2 : mmuTranslate (trapSaved s pa1) (s.esp - 8#32) .write = .ok pa2) (hb2 : pa2 + 3 ≤ s.capacity.toNat)
    (he1 : s.pg = true → (trapEntered s pa1 pa2 v).ram.readWord (pteAddr s (s.esp - 4#32))
      = s.ram.readWord (pteAddr s (s.esp - 4#32)))
    (he2 : s.pg = true → (trapEntered s pa1 pa2 v).ram.readWord (pteAddr s (s.esp - 8#32))
      = (trapSaved s pa1).ram.readWord (pteAddr s (s.esp - 8#32))) :
    trapReturn (trapEntered s pa1 pa2 v) = .ok ((((trapEntered s pa1 pa2 v).setEsp s.esp).setFlagsByte
      (returnFlags s.enterKernel.flagsByte)).setEip (s.eip + 12#32)) := by
  have hkern := trapEntered_pl s pa1 pa2 v
  have hword : memRead32 (trapEntered s pa1 pa2 v) (s.esp - 8#32) = .ok (s.eip + 12#32) := by
    refine memRead32_eq_ok.2 ⟨pa2, translate_kernel_read hpa2 hkern (by simp) (by simp) (by simp) ?_, by simpa, ?_⟩
    · simpa [pteAddr] using he2
    · rw [readWord_trapEntered]
  have hbyte : memRead8 (trapEntered s pa1 pa2 v) (s.esp - 4#32) = .ok s.enterKernel.flagsByte := by
    refine memRead8_eq_ok.2 ⟨pa1, translate_kernel_read hpa1 hkern (by simp) (by simp) (by simp) ?_, by simpa, ?_⟩
    · simpa [pteAddr] using he1
    · rw [read_trapEntered_flags v hpa1 hpa2]
  refine trapReturn_eq_ok_iff.2 ⟨hkern, s.eip + 12#32, s.enterKernel.flagsByte, ?_, ?_, ?_⟩
  · rwa [trapEntered_esp]
  · rwa [trapEntered_esp, show s.esp - 8#32 + 4#32 = s.esp - 4#32 by bv_omega]
  · rw [trapEntered_esp, BitVec.sub_add_cancel]

/-- Settles O49: the entry in full, and the return that pops its two slots. -/
theorem interruptThenReturn : Obligations.InterruptThenReturn := by
  intro op1 op2 x y s t p hp h he
  obtain ⟨f, hf, hret⟩ : ∃ f, trapEnter f s = .ok t
      ∧ ∀ u, trapReturn t = .ok u → exec p.2 t = .next u := by
    simp only [List.mem_cons, List.not_mem_nil, or_false] at hp
    obtain rfl | rfl := hp
    · exact ⟨_, (exec_int_eq_next.1 h).2, fun u hu => outcome_eq_next.2 hu⟩
    · exact ⟨_, (exec_sysenter_eq_next.1 h).2, fun u hu => outcome_eq_next.2 hu⟩
  obtain ⟨hregs, -, -⟩ := trapEnter_frame hf
  obtain ⟨v, pa1, pa2, -, hpa1, hb1, hpa2, hb2, rfl⟩ := trapEnter_eq_ok_iff.1 hf
  have hu := trapReturn_trapEntered v hpa1 hb1 hpa2 hb2 (fun hpg => (he hpg pa1 hpa1).1)
    (fun hpg => by rw [trapSaved_ram]; exact (he hpg pa1 hpa1).2)
  refine ⟨_, hret _ hu, by simp, by simp, by simp, by simp, by simp, fun r hr => ?_, fun _ => by simp⟩
  by_cases hse : r = .esp
  · subst hse
    simp [State.getReg]
  · have hr3 : r ∉ [Reg.eip, .esp, .eflags] := by
      simp only [List.mem_cons, List.not_mem_nil, or_false, not_or] at hr ⊢
      exact ⟨hr.1, hse, hr.2⟩
    exact (trapReturn_frame _ _ _ _ r hr3).trans (hregs r hr3)

end Sys2Proof.Machine
end

section
/-! The checks a handler makes first (40 R154, 60 R272, R276, R277): past them no operation raises MissingOperand, and
none raises WidthMismatch. -/

namespace Sys2Proof.Machine

/-- A fault other than MissingOperand, which only the first check raises, and WidthMismatch, which nothing does. -/
def IsLateFault (f : Fault) : Prop := f ≠ .missingOperand ∧ f ≠ .widthMismatch

/-- An operation that raises late faults only. -/
def FaultsLate {α : Type} (x : Except Fault α) : Prop := ∀ f, x = .error f → IsLateFault f

theorem isLateFault_of_isFetchFault {f : Fault} (h : IsFetchFault f) : IsLateFault f := by
  obtain rfl | ⟨a, rfl⟩ | ⟨flags, a, rfl⟩ := h <;> exact ⟨nofun, nofun⟩

theorem faultsLate_ok {α : Type} (a : α) : FaultsLate (.ok a) := nofun

theorem faultsLate_error {α : Type} {f : Fault} (h : IsLateFault f) : FaultsLate (.error f : Except Fault α) := by
  intro f' hf
  cases hf
  exact h

theorem faultsLate_bind {α β : Type} {x : Except Fault α} {g : α → Except Fault β} (hx : FaultsLate x)
    (hg : ∀ a, FaultsLate (g a)) : FaultsLate (x >>= g) := by
  intro f h
  obtain h | ⟨a, -, h⟩ := except_bind_eq_error.1 h
  · exact hx f h
  · exact hg a f h

theorem faultsLate_requirePresent {op : Operand} (h : op.isNo = false) : FaultsLate (requirePresent op) := by
  rw [requirePresent, h]
  exact faultsLate_ok ()

theorem faultsLate_requireTarget (op : Operand) : FaultsLate (requireTarget op) := by
  unfold requireTarget
  split
  · exact faultsLate_error ⟨nofun, nofun⟩
  · exact faultsLate_ok ()

theorem faultsLate_requireKernel (s : State) : FaultsLate (requireKernel s) := by
  unfold requireKernel
  split
  · exact faultsLate_ok ()
  · exact faultsLate_error ⟨nofun, nofun⟩

theorem faultsLate_regRead (s : State) (c : Word) : FaultsLate (regRead s c) := by
  unfold regRead
  cases Reg.ofCode c with
  | none => exact faultsLate_error ⟨nofun, nofun⟩
  | some r =>
    dsimp only
    split
    · exact faultsLate_ok _
    · exact faultsLate_error ⟨nofun, nofun⟩

theorem faultsLate_regWrite (s : State) (c v : Word) : FaultsLate (regWrite s c v) := by
  unfold regWrite
  cases Reg.ofCode c with
  | none => exact faultsLate_error ⟨nofun, nofun⟩
  | some r =>
    dsimp only
    split_ifs
    · exact faultsLate_error ⟨nofun, nofun⟩
    · exact faultsLate_ok _
    · exact faultsLate_error ⟨nofun, nofun⟩

theorem faultsLate_memRead32 (s : State) (va : Word) : FaultsLate (memRead32 s va) :=
  fun _ h => isLateFault_of_isFetchFault (isFetchFault_of_memRead32 h)

theorem faultsLate_memRead8 (s : State) (va : Word) : FaultsLate (memRead8 s va) :=
  fun _ h => isLateFault_of_isFetchFault (isFetchFault_of_memRead8 h)

theorem faultsLate_push32 (s : State) (v : Word) : FaultsLate (push32 s v) :=
  fun _ h => isLateFault_of_isFetchFault (isFetchFault_of_memWrite32 h)

theorem faultsLate_push8 (s : State) (b : Byte) : FaultsLate (push8 s b) :=
  fun _ h => isLateFault_of_isFetchFault (isFetchFault_of_memWrite8 h)

theorem faultsLate_pop32 (s : State) : FaultsLate (pop32 s) :=
  faultsLate_bind (faultsLate_memRead32 s s.esp) fun _ => faultsLate_ok _

theorem faultsLate_pop8 (s : State) : FaultsLate (pop8 s) :=
  faultsLate_bind (faultsLate_memRead8 s s.esp) fun _ => faultsLate_ok _

theorem faultsLate_memWrite32 (s : State) (va v : Word) : FaultsLate (memWrite32 s va v) :=
  fun _ h => isLateFault_of_isFetchFault (isFetchFault_of_memWrite32 h)

section Operands

variable {op op1 op2 : Operand} (s : State)

theorem faultsLate_srcVal (h : op.isNo = false) : FaultsLate (srcVal s op) := by
  cases op with
  | no => cases h
  | imm v => exact faultsLate_ok v
  | reg c => exact faultsLate_regRead s c
  | mem a => exact faultsLate_memRead32 s a
  | regInd c => exact faultsLate_bind (faultsLate_regRead s c) (faultsLate_memRead32 s)

theorem faultsLate_addrVal (h : op.isNo = false) : FaultsLate (addrVal s op) := by
  cases op with
  | no => cases h
  | imm v => exact faultsLate_ok v
  | reg c => exact faultsLate_regRead s c
  | mem a => exact faultsLate_ok a
  | regInd c => exact faultsLate_bind (faultsLate_regRead s c) (faultsLate_memRead32 s)

theorem faultsLate_writeOp (v : Word) (h : op.isNo = false) : FaultsLate (writeOp s op v) := by
  cases op with
  | no => cases h
  | imm u => exact faultsLate_error ⟨nofun, nofun⟩
  | reg c => exact faultsLate_regWrite s c v
  | mem a => exact faultsLate_memWrite32 s a v
  | regInd c => exact faultsLate_bind (faultsLate_regRead s c) fun a => faultsLate_memWrite32 s a v

theorem faultsLate_aluTwo {f : Bool → Word → Word → Except Fault AluResult} (h1 : op1.isNo = false)
    (h2 : op2.isNo = false) (hf : ∀ c a b, FaultsLate (f c a b)) : FaultsLate (aluTwo f op1 op2 s) :=
  faultsLate_bind (faultsLate_requirePresent h1) fun _ =>
  faultsLate_bind (faultsLate_requirePresent h2) fun _ =>
  faultsLate_bind (faultsLate_requireTarget op2) fun _ =>
  faultsLate_bind (faultsLate_srcVal s h1) fun _ =>
  faultsLate_bind (faultsLate_srcVal s h2) fun _ =>
  faultsLate_bind (hf _ _ _) fun r =>
  faultsLate_bind (faultsLate_writeOp s r.value h2) fun _ => faultsLate_ok _

theorem faultsLate_aluOne {f : Word → AluResult} (h1 : op1.isNo = false) : FaultsLate (aluOne f op1 s) :=
  faultsLate_bind (faultsLate_requirePresent h1) fun _ =>
  faultsLate_bind (faultsLate_requireTarget op1) fun _ =>
  faultsLate_bind (faultsLate_srcVal s h1) fun x =>
  faultsLate_bind (faultsLate_writeOp s (f x).value h1) fun _ => faultsLate_ok _

theorem faultsLate_condJump {c : Byte → Bool} (h1 : op1.isNo = false) : FaultsLate (condJump c op1 s) := by
  refine faultsLate_bind (faultsLate_requirePresent h1) fun _ => ?_
  split
  · exact faultsLate_bind (faultsLate_addrVal s h1) fun _ => faultsLate_ok _
  · exact faultsLate_ok _

theorem faultsLate_trapEnter {target : State → Except Fault Word} (h : ∀ s1, FaultsLate (target s1)) :
    FaultsLate (trapEnter target s) :=
  faultsLate_bind (h _) fun _ =>
  faultsLate_bind (faultsLate_push8 _ _) fun _ =>
  faultsLate_bind (faultsLate_push32 _ _) fun _ => faultsLate_ok _

theorem faultsLate_trapReturn : FaultsLate (trapReturn s) :=
  faultsLate_bind (faultsLate_requireKernel s) fun _ =>
  faultsLate_bind (faultsLate_pop32 s) fun _ =>
  faultsLate_bind (faultsLate_pop8 _) fun _ => faultsLate_ok _

theorem faultsLate_interrupt (h : op.isNo = false) : FaultsLate (interrupt op s) :=
  faultsLate_bind (faultsLate_requirePresent h) fun _ =>
  faultsLate_trapEnter s fun s1 => faultsLate_bind (faultsLate_srcVal s1 h) fun _ => faultsLate_ok _

theorem faultsLate_aluDiv (a b : Word) : FaultsLate (aluDiv a b) := by
  unfold aluDiv
  split
  · exact faultsLate_error ⟨nofun, nofun⟩
  · exact faultsLate_ok _

end Operands

/-- The meaning of an instruction, as an outcome, raises late faults only. -/
theorem isLateFault_of_outcome {x : Except Fault State} {f : Fault} (hx : FaultsLate x) (h : outcome x = .fault f) :
    IsLateFault f := hx f (outcome_eq_fault.1 h)

theorem present_both {a b : Bool} (h : (!a && !b) = true) : a = false ∧ b = false := by simpa using h

theorem present_one {a : Bool} (h : (!a) = true) : a = false := by simpa using h

/-- An instruction whose slots are present raises late faults only. -/
theorem isLateFault_of_exec {i : Instr} {s : State} {f : Fault} (hp : i.presentOk = true) (h : exec i s = .fault f) :
    IsLateFault f := by
  cases i with
  | add op1 op2 | adc op1 op2 | sub op1 op2 | sbb op1 op2 | mul op1 op2 | and op1 op2 | or op1 op2 | xor op1 op2
  | shl op1 op2 | shr op1 op2 =>
    obtain ⟨h1, h2⟩ := present_both hp
    exact isLateFault_of_outcome (faultsLate_aluTwo s h1 h2 fun _ _ _ => faultsLate_ok _) h
  | div op1 op2 =>
    obtain ⟨h1, h2⟩ := present_both hp
    exact isLateFault_of_outcome (faultsLate_aluTwo s h1 h2 fun _ => faultsLate_aluDiv) h
  | neg op1 op2 | not op1 op2 => exact isLateFault_of_outcome (faultsLate_aluOne s (present_one hp)) h
  | cmp op1 op2 =>
    obtain ⟨h1, h2⟩ := present_both hp
    exact isLateFault_of_outcome
      (faultsLate_bind (faultsLate_requirePresent h1) fun _ => faultsLate_bind (faultsLate_requirePresent h2) fun _ =>
        faultsLate_bind (faultsLate_srcVal s h1) fun _ => faultsLate_bind (faultsLate_srcVal s h2) fun _ =>
        faultsLate_ok _) h
  | mov op1 op2 =>
    obtain ⟨h1, h2⟩ := present_both hp
    exact isLateFault_of_outcome
      (faultsLate_bind (faultsLate_requirePresent h1) fun _ => faultsLate_bind (faultsLate_requirePresent h2) fun _ =>
        faultsLate_bind (faultsLate_requireTarget op2) fun _ => faultsLate_bind (faultsLate_srcVal s h1) fun v =>
        faultsLate_bind (faultsLate_writeOp s v h2) fun _ => faultsLate_ok _) h
  | nop op1 op2 | haltWord => cases h
  | push op1 op2 =>
    have h1 := present_one hp
    exact isLateFault_of_outcome
      (faultsLate_bind (faultsLate_requirePresent h1) fun _ => faultsLate_bind (faultsLate_srcVal _ h1) fun _ =>
        faultsLate_bind (faultsLate_push32 _ _) fun _ => faultsLate_ok _) h
  | pop op1 op2 =>
    have h1 := present_one hp
    exact isLateFault_of_outcome
      (faultsLate_bind (faultsLate_requirePresent h1) fun _ => faultsLate_bind (faultsLate_requireTarget op1) fun _ =>
        faultsLate_bind (faultsLate_memRead32 _ _) fun v => faultsLate_bind (faultsLate_writeOp s v h1) fun _ =>
        faultsLate_ok _) h
  | pushf op1 op2 =>
    exact isLateFault_of_outcome
      (faultsLate_bind (faultsLate_requireKernel s) fun _ => faultsLate_bind (faultsLate_push8 _ _) fun _ =>
        faultsLate_ok _) h
  | popf op1 op2 =>
    exact isLateFault_of_outcome
      (faultsLate_bind (faultsLate_requireKernel s) fun _ => faultsLate_bind (faultsLate_pop8 _) fun _ =>
        faultsLate_ok _) h
  | cli op1 op2 | sti op1 op2 =>
    exact isLateFault_of_outcome (faultsLate_bind (faultsLate_requireKernel s) fun _ => faultsLate_ok _) h
  | jmp op1 op2 =>
    have h1 := present_one hp
    exact isLateFault_of_outcome
      (faultsLate_bind (faultsLate_requirePresent h1) fun _ => faultsLate_bind (faultsLate_addrVal s h1) fun _ =>
        faultsLate_ok _) h
  | jz op1 op2 | je op1 op2 | jnz op1 op2 | jne op1 op2 | jg op1 op2 | jge op1 op2 | jl op1 op2 | jle op1 op2 =>
    exact isLateFault_of_outcome (faultsLate_condJump s (present_one hp)) h
  | call op1 op2 =>
    have h1 := present_one hp
    exact isLateFault_of_outcome
      (faultsLate_bind (faultsLate_requirePresent h1) fun _ => faultsLate_bind (faultsLate_push32 _ _) fun _ =>
        faultsLate_bind (faultsLate_addrVal _ h1) fun _ => faultsLate_ok _) h
  | ret op1 op2 =>
    exact isLateFault_of_outcome (faultsLate_bind (faultsLate_pop32 s) fun _ => faultsLate_ok _) h
  | int op1 op2 => exact isLateFault_of_outcome (faultsLate_interrupt s (present_one hp)) h
  | sysenter op1 op2 =>
    have h1 := present_one hp
    exact isLateFault_of_outcome
      (faultsLate_bind (faultsLate_requirePresent h1) fun _ =>
        faultsLate_trapEnter s fun s1 => faultsLate_addrVal s1 h1) h
  | iret op1 op2 | sysexit op1 op2 => exact isLateFault_of_outcome (faultsLate_trapReturn s) h

section Checks

variable {op1 op2 : Operand} {x : Except Fault State}

/-- A meaning that needs its first slot reports it missing (R154). -/
theorem missing_one (h : (!op1.isNo) = false) :
    outcome (requirePresent op1 >>= fun _ => x) = .fault .missingOperand := by
  have hno : op1.isNo = true := by simpa using h
  rw [requirePresent, hno]
  rfl

/-- A meaning that needs both slots reports the one missing. -/
theorem missing_two (h : (!op1.isNo && !op2.isNo) = false) :
    outcome (requirePresent op1 >>= fun _ => requirePresent op2 >>= fun _ => x) = .fault .missingOperand := by
  unfold requirePresent
  cases h1 : op1.isNo <;> cases h2 : op2.isNo
  · simp [h1, h2] at h
  all_goals rfl

/-- With its slot present, a meaning that writes an immediate reports it (R154, R277). -/
theorem immediate_one (hp : (!op1.isNo) = true) (h : (!op1.isImm) = false) :
    outcome (requirePresent op1 >>= fun _ => requireTarget op1 >>= fun _ => x) = .fault .unsupportedOperandType := by
  have himm : op1.isImm = true := by simpa using h
  rw [requirePresent_eq_ok (u := ()).2 (present_one hp), requireTarget, himm]
  rfl

theorem immediate_two (hp : (!op1.isNo && !op2.isNo) = true) (h : (!op2.isImm) = false) :
    outcome (requirePresent op1 >>= fun _ => requirePresent op2 >>= fun _ => requireTarget op2 >>= fun _ => x)
      = .fault .unsupportedOperandType := by
  obtain ⟨h1, h2⟩ := present_both hp
  have himm : op2.isImm = true := by simpa using h
  rw [requirePresent_eq_ok (u := ()).2 h1, requirePresent_eq_ok (u := ()).2 h2, requireTarget, himm]
  rfl

end Checks

/-- An instruction with a needed slot absent reports it, in every state (R154, R276). -/
theorem exec_missing {i : Instr} (s : State) (h : i.presentOk = false) : exec i s = .fault .missingOperand := by
  cases i with
  | add op1 op2 | adc op1 op2 | sub op1 op2 | sbb op1 op2 | mul op1 op2 | div op1 op2 | and op1 op2 | or op1 op2
  | xor op1 op2 | shl op1 op2 | shr op1 op2 | cmp op1 op2 | mov op1 op2 => exact missing_two h
  | neg op1 op2 | not op1 op2 | push op1 op2 | pop op1 op2 | jmp op1 op2 | jz op1 op2 | je op1 op2 | jnz op1 op2
  | jne op1 op2 | jg op1 op2 | jge op1 op2 | jl op1 op2 | jle op1 op2 | call op1 op2 | int op1 op2
  | sysenter op1 op2 => exact missing_one h
  | nop op1 op2 | pushf op1 op2 | popf op1 op2 | cli op1 op2 | sti op1 op2 | ret op1 op2 | iret op1 op2
  | sysexit op1 op2 | haltWord => cases h

/-- An instruction with its slots present and an immediate target reports it, in every state (R154, R277). -/
theorem exec_immediate {i : Instr} (s : State) (hp : i.presentOk = true) (h : i.targetOk = false) :
    exec i s = .fault .unsupportedOperandType := by
  cases i with
  | add op1 op2 | adc op1 op2 | sub op1 op2 | sbb op1 op2 | mul op1 op2 | div op1 op2 | and op1 op2 | or op1 op2
  | xor op1 op2 | shl op1 op2 | shr op1 op2 | mov op1 op2 => exact immediate_two hp h
  | neg op1 op2 | not op1 op2 | pop op1 op2 => exact immediate_one hp h
  | _ => cases h

/-- Settles O50: an absent slot is reported first, and with the slots present no later operation reports one. -/
theorem operandChecksComeFirst : Obligations.OperandChecksComeFirst := by
  refine ⟨fun i s => ⟨fun h => ?_, exec_missing s⟩, fun i s => exec_immediate s⟩
  by_contra hp
  exact (isLateFault_of_exec (by simpa using hp) h).1 rfl

theorem exec_ne_widthMismatch (i : Instr) (s : State) : exec i s ≠ .fault .widthMismatch := by
  intro h
  cases hp : i.presentOk with
  | true => exact (isLateFault_of_exec hp h).2 rfl
  | false =>
    rw [exec_missing s hp] at h
    cases h

theorem faultsLate_memFetch (s : State) (va : Word) : FaultsLate (memFetch s va) :=
  fun _ h => isLateFault_of_isFetchFault (isFetchFault_of_memFetch h)

theorem faultsLate_ofDecode {α : Type} (r : Except DecodeError α) : FaultsLate (ofDecode r) := by
  cases r with
  | ok x => exact faultsLate_ok x
  | error e => cases e <;> exact faultsLate_error ⟨nofun, nofun⟩

theorem faultsLate_fetchOperand (s : State) (slot : Except DecodeError SlotKind) (offset : Word) :
    FaultsLate (fetchOperand s slot offset) := by
  refine faultsLate_bind (faultsLate_ofDecode slot) fun k => ?_
  split
  · exact faultsLate_ok _
  · exact faultsLate_bind (faultsLate_memFetch s _) fun _ => faultsLate_ok _

theorem faultsLate_fetchInstr (s : State) (w0 : Word) : FaultsLate (fetchInstr s w0) := by
  unfold fetchInstr
  split
  · exact faultsLate_ok _
  · exact faultsLate_bind (faultsLate_ofDecode _) fun _ => faultsLate_bind (faultsLate_fetchOperand s _ _) fun _ =>
      faultsLate_bind (faultsLate_fetchOperand s _ _) fun _ => faultsLate_ok _

theorem step_ne_widthMismatch (s : State) : step s ≠ .fault .widthMismatch := by
  cases h0 : fetchWord0 s with
  | error f =>
    rw [step_of_fetchWord0_error h0]
    exact fun h => (faultsLate_memFetch s s.eip f h0).2 (Host.Outcome.fault.inj h)
  | ok w0 =>
    cases hi : fetchInstr (fetched s w0) w0 with
    | error f =>
      rw [step_of_fetchInstr_error h0 hi]
      exact fun h => (faultsLate_fetchInstr _ w0 f hi).2 (Host.Outcome.fault.inj h)
    | ok i =>
      rw [step_of_fetchInstr_ok h0 hi]
      exact exec_ne_widthMismatch i _

/-- Settles O57: fetch and decode fault late, so do the instructions, and the host's `int` is INT's handler. -/
theorem widthMismatchIsNeverRaised : Obligations.WidthMismatchIsNeverRaised := by
  refine ⟨step_ne_widthMismatch, fun op s h => ?_⟩
  have herr : interrupt op s = .error .widthMismatch := by
    simp only [hostStep, hostInt] at h
    split at h
    · cases h
    · next f hf => rw [hf, HostReply.fault.inj h]
  exact exec_ne_widthMismatch (.int op .no) s (outcome_eq_fault.2 herr)

end Sys2Proof.Machine
end

section
/-! The host port (60 R299 to R302, 70 R310, R311): each operation's reply and the state it leaves. -/

namespace Sys2Proof.Machine

theorem hostStep_regGet {s : State} {r : Reg} (h : s.hasReg r = true) :
    hostStep (.regGet r) s = (.word (s.getReg r), s) := if_pos h

theorem hostStep_regSet {s : State} {r : Reg} (v : Word) (h : s.hasReg r = true) :
    hostStep (.regSet r v) s = (.done, s.setReg r v) := if_pos h

/-- The absent GPTP is refused to the host, and the state is left (R302). -/
theorem hostStep_absent {s : State} {r : Reg} (v : Word) (h : s.hasReg r = false) :
    hostStep (.regGet r) s = (.refused .hostAccessToAbsentGptp, s)
      ∧ hostStep (.regSet r v) s = (.refused .hostAccessToAbsentGptp, s) := by
  simp [hostStep, h]

theorem hostStep_ram {s : State} {pa : Nat} (b : Byte) (h : pa ≤ s.capacity.toNat) :
    hostStep (.ramRead pa) s = (.byte (s.ram.read pa), s)
      ∧ hostStep (.ramWrite pa b) s = (.done, s.setRam (s.ram.write pa b)) := by
  have hread : physRead8 s pa = .ok (s.ram.read pa) := physRead8_eq_ok.2 ⟨h, rfl⟩
  have hwrite : physWrite8 s pa b = .ok (s.setRam (s.ram.write pa b)) := physWrite8_eq_ok.2 ⟨h, rfl⟩
  simp only [hostStep, hread, hwrite, and_self]

/-- The host's `int` and the INT instruction are one handler (R301). -/
theorem hostStep_int_of_ok {op : Operand} {s t : State} (h : interrupt op s = .ok t) :
    hostStep (.int op) s = (.done, t) := by
  simp only [hostStep, hostInt, h]

theorem hostStep_int_of_error {op : Operand} {s : State} {f : Fault} (h : interrupt op s = .error f) :
    hostStep (.int op) s = (.fault f, s) := by
  simp only [hostStep, hostInt, h]

/-- Settles O59: each operation by its equation; `int` by how the INT handler ends. -/
theorem hostPortOperations : Obligations.HostPortOperations := by
  refine ⟨fun _ => rfl, fun _ => rfl, fun _ _ => hostStep_regGet, ?regSet, ?absent, fun _ _ b => hostStep_ram b,
    ?reset, ?int⟩
  case regSet =>
    intro s r v h
    exact ⟨_, hostStep_regSet v h, getReg_setReg s r v, setReg_frame s r v, setReg_sameMemory s r v,
      setReg_sameMachine s r v⟩
  case absent =>
    intro s v hpg
    exact hostStep_absent v (hasReg_eq_false.2 ⟨rfl, hpg⟩)
  case reset =>
    intro s
    refine ⟨rfl, fun r => ?_, rfl, fun _ => rfl, rfl⟩
    cases r with
    | eflags => exact (by decide : (0#8 ++ 0#24 : Word) = 0#32)
    | _ => rfl
  case int =>
    intro op x s
    have hexec : exec (.int op x) s = outcome (interrupt op s) := rfl
    cases h : interrupt op s with
    | ok t =>
      have heir : t.eir = s.eir := (trapEnter_frame (interrupt_eq_ok.1 h).2).1 .eir (by decide)
      simp [hexec, h, hostStep_int_of_ok h, heir]
    | error f => simp [hexec, h, hostStep_int_of_error h]

end Sys2Proof.Machine
end

section
/-! The assembler (30 R120 to R126): pass 2 by induction over the lines, pass 1 by the first declaration. -/

namespace Sys2Proof.Machine

/-- The instruction an instruction line makes under the labels of pass 1, if it makes one. -/
def lineInstr (labels : List (List Char × Word)) (l : List Char × List (List Char)) : Option Instr :=
  (parseOperands labels l.2).bind (asmInstr l.1)

/-- The three words of an instruction, in a list (R125). -/
def instrWords (i : Instr) : List Word := [(encode i).1, (encode i).2.1, (encode i).2.2]

section Pass2

variable {labels : List (List Char × Word)} {line : Nat} {mnemonic : List Char} {texts : List (List Char)}
  {rest : List AsmLine}

theorem assembleLines_bad (h : lineInstr labels (mnemonic, texts) = none) :
    assembleLines labels line (.instr mnemonic texts :: rest) = .error (.unrecognizedInstruction line) := by
  have h' : (parseOperands labels texts).bind (asmInstr mnemonic) = none := h
  simp only [assembleLines, h']

theorem assembleLines_good {i : Instr} (h : lineInstr labels (mnemonic, texts) = some i) :
    assembleLines labels line (.instr mnemonic texts :: rest) =
      (assembleLines labels (line + 1) rest).map (instrWords i ++ ·) := by
  have h' : (parseOperands labels texts).bind (asmInstr mnemonic) = some i := h
  simp only [assembleLines, h']
  cases assembleLines labels (line + 1) rest <;> rfl

end Pass2

theorem except_map_eq_ok {ε α β : Type} {g : α → β} {x : Except ε α} {b : β} :
    x.map g = .ok b ↔ ∃ a, x = .ok a ∧ g a = b := by
  cases x <;> simp [Except.map]

theorem except_map_eq_error {ε α β : Type} {g : α → β} {x : Except ε α} {e : ε} :
    x.map g = .error e ↔ x = .error e := by
  cases x <;> simp [Except.map]

/-- Pass 2 succeeds exactly when every instruction line makes an instruction, with their words in order. -/
theorem assembleLines_eq_ok {labels : List (List Char × Word)} {source : List AsmLine} {line : Nat}
    {ws : List Word} :
    assembleLines labels line source = .ok ws ↔
      ∃ is : List Instr, is.map some = (source.filterMap AsmLine.instr?).map (lineInstr labels)
        ∧ ws = is.flatMap instrWords := by
  induction source generalizing line ws with
  | nil => simp [assembleLines, except_ok_eq_ok, -Except.ok.injEq]
  | cons l rest ih =>
    cases l with
    | blank | label name => exact ih
    | instr mnemonic texts =>
      have hhead : ((.instr mnemonic texts :: rest).filterMap AsmLine.instr?).map (lineInstr labels)
          = lineInstr labels (mnemonic, texts) :: (rest.filterMap AsmLine.instr?).map (lineInstr labels) := rfl
      rw [hhead]
      cases hi : lineInstr labels (mnemonic, texts) with
      | none => simp [assembleLines_bad hi, List.map_eq_cons_iff]
      | some i =>
        simp only [assembleLines_good hi, except_map_eq_ok, ih, List.map_eq_cons_iff]
        constructor
        · rintro ⟨ws', ⟨is, his, rfl⟩, rfl⟩
          exact ⟨i :: is, ⟨i, is, rfl, rfl, his⟩, rfl⟩
        · rintro ⟨_, ⟨j, is, rfl, hj, his⟩, rfl⟩
          cases hj
          exact ⟨_, ⟨is, his, rfl⟩, rfl⟩

/-- The line at index `k` is the first that makes no instruction. -/
def FirstBad (labels : List (List Char × Word)) (source : List AsmLine) (k : Nat) : Prop :=
  ∃ pre mnemonic texts post, source = pre ++ .instr mnemonic texts :: post ∧ k = pre.length
    ∧ lineInstr labels (mnemonic, texts) = none
    ∧ ∀ l ∈ pre.filterMap AsmLine.instr?, lineInstr labels l ≠ none

section FirstBad

variable {labels : List (List Char × Word)} {rest : List AsmLine}

/-- A line that makes an instruction, or is none, puts the first bad line one further on. -/
theorem firstBad_cons_good {l : AsmLine} (hl : ∀ x, l.instr? = some x → lineInstr labels x ≠ none) (k : Nat) :
    FirstBad labels (l :: rest) k ↔ ∃ j, k = j + 1 ∧ FirstBad labels rest j := by
  constructor
  · rintro ⟨pre, mnemonic, texts, post, hsource, rfl, hbad, hpre⟩
    cases pre with
    | nil =>
      obtain ⟨rfl, -⟩ := List.cons.inj hsource
      exact absurd hbad (hl _ rfl)
    | cons p pre =>
      obtain ⟨rfl, rfl⟩ := List.cons.inj hsource
      refine ⟨pre.length, rfl, pre, mnemonic, texts, post, rfl, rfl, hbad, fun x hx => hpre x ?_⟩
      obtain ⟨y, hy, hyx⟩ := List.mem_filterMap.1 hx
      exact List.mem_filterMap.2 ⟨y, List.mem_cons_of_mem _ hy, hyx⟩
  · rintro ⟨_, rfl, pre, mnemonic, texts, post, rfl, rfl, hbad, hpre⟩
    refine ⟨l :: pre, mnemonic, texts, post, rfl, rfl, hbad, fun x hx => ?_⟩
    obtain ⟨y, hy, hyx⟩ := List.mem_filterMap.1 hx
    obtain rfl | hy := List.mem_cons.1 hy
    · exact hl x hyx
    · exact hpre x (List.mem_filterMap.2 ⟨y, hy, hyx⟩)

/-- A line that makes no instruction is the first bad one of the lines it leads. -/
theorem firstBad_cons_bad {mnemonic : List Char} {texts : List (List Char)}
    (h : lineInstr labels (mnemonic, texts) = none) (k : Nat) :
    FirstBad labels (.instr mnemonic texts :: rest) k ↔ k = 0 := by
  constructor
  · rintro ⟨pre, mnemonic', texts', post, hsource, rfl, -, hpre⟩
    cases pre with
    | nil => rfl
    | cons p pre =>
      obtain ⟨rfl, -⟩ := List.cons.inj hsource
      exact absurd h (hpre _ (List.mem_filterMap.2 ⟨_, List.mem_cons_self, rfl⟩))
  · rintro rfl
    exact ⟨[], mnemonic, texts, rest, rfl, rfl, h, nofun⟩

end FirstBad

/-- Pass 2 fails exactly by naming the first line that makes no instruction. -/
theorem assembleLines_eq_error {labels : List (List Char × Word)} {source : List AsmLine} {line n : Nat} :
    assembleLines labels line source = .error (.unrecognizedInstruction n) ↔
      ∃ k, n = k + line ∧ FirstBad labels source k := by
  induction source generalizing line with
  | nil => simp [assembleLines, FirstBad]
  | cons l rest ih =>
    have further (hl : ∀ x, l.instr? = some x → lineInstr labels x ≠ none) :
        (∃ k, n = k + line ∧ FirstBad labels (l :: rest) k)
          ↔ assembleLines labels (line + 1) rest = .error (.unrecognizedInstruction n) := by
      rw [ih]
      constructor
      · rintro ⟨_, rfl, hk⟩
        obtain ⟨j, rfl, hj⟩ := (firstBad_cons_good hl _).1 hk
        exact ⟨j, by omega, hj⟩
      · rintro ⟨j, rfl, hj⟩
        exact ⟨j + 1, by omega, (firstBad_cons_good hl _).2 ⟨j, rfl, hj⟩⟩
    cases l with
    | blank | label name => exact (further nofun).symm
    | instr mnemonic texts =>
      cases hi : lineInstr labels (mnemonic, texts) with
      | none =>
        simp only [assembleLines_bad hi, firstBad_cons_bad hi, Except.error.injEq,
          AsmError.unrecognizedInstruction.injEq]
        exact ⟨fun h => ⟨0, by omega, rfl⟩, fun ⟨k, hn, hk⟩ => by omega⟩
      | some i =>
        rw [assembleLines_good hi, except_map_eq_error, further]
        intro x hx
        cases hx
        simp [hi]

/-- What the assembler accepts is well formed (R112, R120). -/
theorem asmInstr_wellFormed {mnemonic : List Char} {ops : List Operand} {i : Instr}
    (h : asmInstr mnemonic ops = some i) : i.wellFormed = true := by
  obtain ⟨mk, -, hmk⟩ := Option.bind_eq_some_iff.1 h
  have of_accepted {j : Instr} (hj : (if j.wellFormed then some j else none) = some i) : i.wellFormed = true := by
    split at hj
    · next hw =>
      cases hj
      exact hw
    · cases hj
  match ops, hmk with
  | [], hmk => exact of_accepted hmk
  | [a], hmk => exact of_accepted hmk
  | [a, b], hmk => exact of_accepted hmk

/-- A name that begins with none of the operand prefixes is looked up among the labels (R121). -/
theorem parseOperand_name {labels : List (List Char × Word)} {name : List Char}
    (h : name.head? ∉ [some '$', some '@', some '%', some '*']) :
    parseOperand labels name = (labels.lookup name).map .mem := by
  unfold parseOperand
  split <;> simp_all

/-- The first declaration of a label binds it to twelve times the instructions before it (R122). -/
theorem lookup_collectLabels {pre post : List AsmLine} {name : List Char} (h : .label name ∉ pre) (count : Nat) :
    (collectLabels count (pre ++ .label name :: post)).lookup name =
      some (BitVec.ofNat 32 ((count + (pre.filterMap AsmLine.instr?).length) * 12)) := by
  induction pre generalizing count with
  | nil => simp [collectLabels]
  | cons l pre ih =>
    simp only [List.mem_cons, not_or] at h
    obtain ⟨hne, hpre⟩ := h
    cases l with
    | blank => exact ih hpre count
    | label other =>
      have hname : (name == other) = false := by simpa using hne
      simp only [List.cons_append, collectLabels, List.lookup_cons, hname]
      exact ih hpre count
    | instr mnemonic texts =>
      have hlen : ((.instr mnemonic texts :: pre).filterMap AsmLine.instr?).length
          = (pre.filterMap AsmLine.instr?).length + 1 := rfl
      simp only [List.cons_append, collectLabels, ih hpre (count + 1), hlen]
      rw [Nat.add_assoc, Nat.add_comm 1]

/-- Settles O60: pass 2 by its two inductions, acceptance by `asmInstr`, labels by pass 1. -/
theorem assemblerEmitsThreeWordsPerInstruction : Obligations.AssemblerEmitsThreeWordsPerInstruction := by
  refine ⟨fun _ _ => assembleLines_eq_ok, fun _ _ _ => asmInstr_wellFormed, fun source n => ?firstBad, ?labels⟩
  case firstBad =>
    refine assembleLines_eq_error.trans ⟨?_, ?_⟩
    · rintro ⟨k, rfl, pre, mnemonic, texts, post, hsource, rfl, hbad, hpre⟩
      exact ⟨pre, mnemonic, texts, post, hsource, rfl, hbad, hpre⟩
    · rintro ⟨pre, mnemonic, texts, post, hsource, rfl, hbad, hpre⟩
      exact ⟨pre.length, rfl, pre, mnemonic, texts, post, hsource, rfl, hbad, hpre⟩
  case labels =>
    intro pre name post hpre hname
    rw [parseOperand_name hname, lookup_collectLabels hpre 0, Nat.zero_add]
    rfl

end Sys2Proof.Machine
end
